-- ==== Sys2Proof/Word.lean ====
section
/-! DEFINITION. The word types of the machine (00_scope.md R4, R5; 10_state.md). All values are unsigned. -/

namespace Sys2Proof

/-- An 8-bit value: a general register, a timer or a byte of memory (R20, R27, R28, R50). -/
abbrev Byte := BitVec 8

/-- A 16-bit value: the index register, the program counter or a stack slot (R23, R24, R25). -/
abbrev Word := BitVec 16

/-- A raw 16-bit instruction word (R9, R70). Bit 0 is the least significant (R5). -/
abbrev Opcode := BitVec 16

/-- The 12-bit address field `nnn` (R71). -/
abbrev Addr12 := BitVec 12

/-- A general register's index, 0 to 15 (R20, R38). -/
abbrev RegIndex := Fin 16

/-- Register 15, VF: a general register that several instructions also use as the flag (R21). -/
abbrev vf : RegIndex := 15

end Sys2Proof
end

