-- ==== Sys2Proof/Config.lean ====
section
/-! DEFINITION. The implementation parameters of 00_scope.md R4, and the values the spec leaves free: opaque
constants without a body, so that no proof can see which value they take. -/

namespace Sys2Proof.Config

/-- `MEM_SIZE` (R4, R50): 4096 bytes. -/
abbrev memSize : Nat := 4096

/-- `ADDR_MAX` (R4): the last address, `MEM_SIZE` − 1. -/
abbrev addrMax : Nat := 0xFFF

/-- `STACK_DEPTH` (R4, R25). -/
abbrev stackDepth : Nat := 16

/-- `FONT_BASE` (R4, R36). -/
abbrev fontBase : Nat := 0x50

/-- `FONT_GLYPH_BYTES` (R4, R36). -/
abbrev fontGlyphBytes : Nat := 5

/-- The size of the font table: 16 glyphs of 5 bytes (R36). -/
abbrev fontBytes : Nat := 80

/-- `PROGRAM_ORIGIN` (R4, R51, R263). -/
abbrev programOrigin : Nat := 0x200

/-- `FB_WIDTH` (R4, R29; decision D1). UNVERIFIED, unsafe: log 8. -/
abbrev fbWidth : Nat := 64

/-- `FB_HEIGHT` (R4, R29; decision D1). UNVERIFIED, unsafe: log 8. -/
abbrev fbHeight : Nat := 32

/-- The readings of `SHIFT_VF_DEST` (92_eei_decisions.md D7, 93_implementation_defined.md U7): what SHR and SHL leave
in VF when VF is also the register shifted. -/
inductive ShiftVfDest where
  /-- The source's statement order: the flag is written first and the shift reads the VF just written. -/
  | sequential
  /-- The operand is read first, the flag written, the shifted operand written last. -/
  | snapshotResult
  /-- The shifted operand is written first, the flag last. -/
  | flagLast
  deriving DecidableEq, Repr

/-- `SHIFT_VF_DEST` (R148, R150; decision D7): the spec's default. UNVERIFIED, unsafe: log 4. -/
abbrev shiftVfDest : ShiftVfDest := .sequential

/-- `RESET_ZERO` (R35; decision D11): the spec's default. UNVERIFIED, unsafe: log 5. -/
abbrev resetZero : Bool := true

/-- `HAS_LD_REG_SNE_REG` (R4; decision D3): 8xy0 and 9xy0 are implemented. UNVERIFIED, unsafe: log 7. -/
abbrev hasLdRegSneReg : Bool := true

/-- `FONT` (R36; decision D13): the 80 bytes, glyph by glyph. PRESUMED by the spec (general knowledge), unsafe: log 6. -/
def font : List Byte :=
  [0xF0, 0x90, 0x90, 0x90, 0xF0] ++   -- 0
  [0x20, 0x60, 0x20, 0x20, 0x70] ++   -- 1
  [0xF0, 0x10, 0xF0, 0x80, 0xF0] ++   -- 2
  [0xF0, 0x10, 0xF0, 0x10, 0xF0] ++   -- 3
  [0x90, 0x90, 0xF0, 0x10, 0x10] ++   -- 4
  [0xF0, 0x80, 0xF0, 0x10, 0xF0] ++   -- 5
  [0xF0, 0x80, 0xF0, 0x90, 0xF0] ++   -- 6
  [0xF0, 0x10, 0x20, 0x40, 0x40] ++   -- 7
  [0xF0, 0x90, 0xF0, 0x90, 0xF0] ++   -- 8
  [0xF0, 0x90, 0xF0, 0x10, 0xF0] ++   -- 9
  [0xF0, 0x90, 0xF0, 0x90, 0x90] ++   -- A
  [0xE0, 0x90, 0xE0, 0x90, 0xE0] ++   -- B
  [0xF0, 0x80, 0x80, 0x80, 0xF0] ++   -- C
  [0xE0, 0x90, 0x90, 0x90, 0xE0] ++   -- D
  [0xF0, 0x80, 0xF0, 0x80, 0xF0] ++   -- E
  [0xF0, 0x80, 0xF0, 0x80, 0x80]      -- F

/-- The host's random-byte source `RandomByte()` (R246; decision D23): the answer to the n-th draw, any byte, with no law
between draws. A free value; the counter it is applied to is `State.draws`: log 3. -/
opaque randomByte : Nat → Byte

/-- With `RESET_ZERO` false, register k's value after construction (R35, U9): a free value. -/
opaque freeResetV : Nat → Byte

/-- With `RESET_ZERO` false, I after construction (R35, U9): a free value. -/
opaque freeResetI : Word

/-- With `RESET_ZERO` false, DT (0) and ST (1) after construction (R35, U9): free values. -/
opaque freeResetTimer : Nat → Byte

/-- With `RESET_ZERO` false, framebuffer row r after construction (R35, U9): a free value. -/
opaque freeResetRow : Nat → BitVec 64

end Sys2Proof.Config
end

