-- ==== Sys2Proof/Syntax.lean ====
section
/-! DEFINITION. The instructions: one constructor per row of spec/opcode_table.json, in its order (30_encoding.md R74). -/

namespace Sys2Proof

/-- An instruction. `x` and `y` select V0 to VF, `kk` is the 8-bit immediate, `nnn` the 12-bit address and `n` the sprite
height (R71, R72). SHR and SHL have no `y`: "the y field is decoded but ignored" (R74, decision D6). -/
inductive Instr where
  /-- 0000 HALT: end the run (R105). -/
  | halt
  /-- 00E0 CLS: clear the screen (R170). -/
  | cls
  /-- 00EE RET: return from subroutine (R120). -/
  | ret
  /-- 1nnn JP nnn: jump (R121). -/
  | jp (nnn : Addr12)
  /-- 2nnn CALL nnn: call subroutine (R122). -/
  | call (nnn : Addr12)
  /-- 3xkk SE Vx, kk: skip if equal (R123). -/
  | seImm (x : RegIndex) (kk : Byte)
  /-- 4xkk SNE Vx, kk: skip if not equal (R124). -/
  | sneImm (x : RegIndex) (kk : Byte)
  /-- 5xy0 SE Vx, Vy: skip if the registers are equal (R125). -/
  | seReg (x y : RegIndex)
  /-- 6xkk LD Vx, kk: load immediate (R140). -/
  | ldImm (x : RegIndex) (kk : Byte)
  /-- 7xkk ADD Vx, kk: add immediate (R141). -/
  | addImm (x : RegIndex) (kk : Byte)
  /-- 8xy0 LD Vx, Vy: register copy (R142). -/
  | ldReg (x y : RegIndex)
  /-- 8xy1 OR Vx, Vy (R143). -/
  | orReg (x y : RegIndex)
  /-- 8xy2 AND Vx, Vy (R144). -/
  | andReg (x y : RegIndex)
  /-- 8xy3 XOR Vx, Vy (R145). -/
  | xorReg (x y : RegIndex)
  /-- 8xy4 ADD Vx, Vy: add with carry out (R146). -/
  | addReg (x y : RegIndex)
  /-- 8xy5 SUB Vx, Vy: subtract with not-borrow (R147). -/
  | subReg (x y : RegIndex)
  /-- 8xy6 SHR Vx: shift right by one (R148). -/
  | shr (x : RegIndex)
  /-- 8xy7 SUBN Vx, Vy: reverse subtract (R149). -/
  | subnReg (x y : RegIndex)
  /-- 8xyE SHL Vx: shift left by one (R150). -/
  | shl (x : RegIndex)
  /-- 9xy0 SNE Vx, Vy: skip if the registers differ (R126). -/
  | sneReg (x y : RegIndex)
  /-- Annn LD I, nnn: set index (R196). -/
  | ldI (nnn : Addr12)
  /-- Bnnn JP V0, nnn: jump with offset (R127). -/
  | jpV0 (nnn : Addr12)
  /-- Cxkk RND Vx, kk: random byte masked (R151). -/
  | rnd (x : RegIndex) (kk : Byte)
  /-- Dxyn DRW Vx, Vy, n: draw sprite (R171). -/
  | drw (x y : RegIndex) (n : Fin 16)
  /-- Ex9E SKP Vx: skip if key pressed (R190). -/
  | skp (x : RegIndex)
  /-- ExA1 SKNP Vx: skip if key not pressed (R191). -/
  | sknp (x : RegIndex)
  /-- Fx07 LD Vx, DT: read the delay timer (R192). -/
  | ldVxDt (x : RegIndex)
  /-- Fx0A LD Vx, K: await key (R193). -/
  | ldVxK (x : RegIndex)
  /-- Fx15 LD DT, Vx: set the delay timer (R194). -/
  | ldDtVx (x : RegIndex)
  /-- Fx18 LD ST, Vx: set the sound timer (R195). -/
  | ldStVx (x : RegIndex)
  /-- Fx1E ADD I, Vx: add to index (R197). -/
  | addI (x : RegIndex)
  /-- Fx29 LD F, Vx: point I at a font glyph (R198). -/
  | ldF (x : RegIndex)
  /-- Fx33 LD B, Vx: store the decimal digits of Vx (R199). -/
  | ldB (x : RegIndex)
  /-- Fx55 LD [I], Vx: store V0 to Vx (R200). -/
  | storeRegs (x : RegIndex)
  /-- Fx65 LD Vx, [I]: load V0 to Vx (R201). -/
  | loadRegs (x : RegIndex)
  deriving DecidableEq, Repr

end Sys2Proof
end

