-- ==== Sys2Proof/Decode.lean ====
section
/-! DEFINITION. Decoding and encoding (30_encoding.md). The opcode table of R74 stands here once, as the spec writes it: four
hexadecimal digits, each fixed or a field. Decoding is total and rejects by name; the encoder follows it. -/

namespace Sys2Proof

/-- Why bytes are not an instruction. -/
inductive DecodeReject where
  /-- Fewer than two bytes: no instruction is shorter (R70). -/
  | tooShort
  /-- An "unrecognized opcode": it matches no row of the table in every fixed digit (R75). -/
  | unrecognizedOpcode (w : Opcode)
  deriving DecidableEq, Repr

/-- The hexadecimal digit of `w` whose lowest bit is bit `lo`. -/
def digit (w : Opcode) (lo : Nat) : Fin 16 :=
  ⟨w.toNat / 2 ^ lo % 16, Nat.mod_lt _ (by decide)⟩

/-- The uniform fields of an opcode (R71): `op` = w[15:12], `x` = w[11:8], `y` = w[7:4], `n` = w[3:0], `kk` = w[7:0] and
`nnn` = w[11:0]. -/
structure Fields where
  op : Fin 16
  x : RegIndex
  y : RegIndex
  n : Fin 16
  kk : Byte
  nnn : Addr12
  deriving DecidableEq, Repr

/-- Every field is extracted from every opcode, whether or not it is used (R71, R103). -/
def fieldsOf (w : Opcode) : Fields where
  op := digit w 12
  x := digit w 8
  y := digit w 4
  n := digit w 0
  kk := BitVec.ofNat 8 w.toNat
  nnn := BitVec.ofNat 12 w.toNat

/-- One digit of a pattern of R74: `some d` is a fixed digit, `none` belongs to a field. -/
abbrev PatternDigit := Option (Fin 16)

/-- A row of the opcode map (R74): its four digits from bit 15 down, and the instruction its fields give. -/
structure OpcodeRow where
  d3 : PatternDigit
  d2 : PatternDigit
  d1 : PatternDigit
  d0 : PatternDigit
  build : Fields → Instr

/-- A digit fits a pattern's digit. -/
def fits (p : PatternDigit) (d : Fin 16) : Bool :=
  match p with
  | some c => decide (d = c)
  | none => true

/-- An opcode matches a row when it has every fixed digit of it (R75). -/
def OpcodeRow.matchesFields (r : OpcodeRow) (f : Fields) : Bool :=
  fits r.d3 f.op && fits r.d2 f.x && fits r.d1 f.y && fits r.d0 f.n

/-- The rows 0000 to 7xkk of R74 (values: decision D2. PRESUMED by the spec, unsafe: log 9). -/
def opcodeRows0to7 : List OpcodeRow :=
  [⟨some 0x0, some 0x0, some 0x0, some 0x0, fun _ => .halt⟩,
   ⟨some 0x0, some 0x0, some 0xE, some 0x0, fun _ => .cls⟩,
   ⟨some 0x0, some 0x0, some 0xE, some 0xE, fun _ => .ret⟩,
   ⟨some 0x1, none, none, none, fun f => .jp f.nnn⟩,
   ⟨some 0x2, none, none, none, fun f => .call f.nnn⟩,
   ⟨some 0x3, none, none, none, fun f => .seImm f.x f.kk⟩,
   ⟨some 0x4, none, none, none, fun f => .sneImm f.x f.kk⟩,
   ⟨some 0x5, none, none, some 0x0, fun f => .seReg f.x f.y⟩,
   ⟨some 0x6, none, none, none, fun f => .ldImm f.x f.kk⟩,
   ⟨some 0x7, none, none, none, fun f => .addImm f.x f.kk⟩]

/-- The rows 8xy0 and 9xy0 of R74, which `HAS_LD_REG_SNE_REG` governs (decision D3). -/
def opcodeRowsLdRegSneReg : List OpcodeRow :=
  [⟨some 0x8, none, none, some 0x0, fun f => .ldReg f.x f.y⟩,
   ⟨some 0x9, none, none, some 0x0, fun f => .sneReg f.x f.y⟩]

/-- The other rows of family 8 of R74. -/
def opcodeRows8 : List OpcodeRow :=
  [⟨some 0x8, none, none, some 0x1, fun f => .orReg f.x f.y⟩,
   ⟨some 0x8, none, none, some 0x2, fun f => .andReg f.x f.y⟩,
   ⟨some 0x8, none, none, some 0x3, fun f => .xorReg f.x f.y⟩,
   ⟨some 0x8, none, none, some 0x4, fun f => .addReg f.x f.y⟩,
   ⟨some 0x8, none, none, some 0x5, fun f => .subReg f.x f.y⟩,
   ⟨some 0x8, none, none, some 0x6, fun f => .shr f.x⟩,
   ⟨some 0x8, none, none, some 0x7, fun f => .subnReg f.x f.y⟩,
   ⟨some 0x8, none, none, some 0xE, fun f => .shl f.x⟩]

/-- The rows Annn to ExA1 of R74. -/
def opcodeRowsAtoE : List OpcodeRow :=
  [⟨some 0xA, none, none, none, fun f => .ldI f.nnn⟩,
   ⟨some 0xB, none, none, none, fun f => .jpV0 f.nnn⟩,
   ⟨some 0xC, none, none, none, fun f => .rnd f.x f.kk⟩,
   ⟨some 0xD, none, none, none, fun f => .drw f.x f.y f.n⟩,
   ⟨some 0xE, none, some 0x9, some 0xE, fun f => .skp f.x⟩,
   ⟨some 0xE, none, some 0xA, some 0x1, fun f => .sknp f.x⟩]

/-- The rows Fx07 to Fx65 of R74. -/
def opcodeRowsF : List OpcodeRow :=
  [⟨some 0xF, none, some 0x0, some 0x7, fun f => .ldVxDt f.x⟩,
   ⟨some 0xF, none, some 0x0, some 0xA, fun f => .ldVxK f.x⟩,
   ⟨some 0xF, none, some 0x1, some 0x5, fun f => .ldDtVx f.x⟩,
   ⟨some 0xF, none, some 0x1, some 0x8, fun f => .ldStVx f.x⟩,
   ⟨some 0xF, none, some 0x1, some 0xE, fun f => .addI f.x⟩,
   ⟨some 0xF, none, some 0x2, some 0x9, fun f => .ldF f.x⟩,
   ⟨some 0xF, none, some 0x3, some 0x3, fun f => .ldB f.x⟩,
   ⟨some 0xF, none, some 0x5, some 0x5, fun f => .storeRegs f.x⟩,
   ⟨some 0xF, none, some 0x6, some 0x5, fun f => .loadRegs f.x⟩]

/-- The opcode map of R74 for a core whose `HAS_LD_REG_SNE_REG` is `has`. -/
def opcodeTable (has : Bool) : List OpcodeRow :=
  opcodeRows0to7 ++ (if has then opcodeRowsLdRegSneReg else []) ++ opcodeRows8 ++ opcodeRowsAtoE ++ opcodeRowsF

/-- `Dispatch(w)` (R104) for a core whose `HAS_LD_REG_SNE_REG` is `has`. -/
def decodeOpcodeWith (has : Bool) (w : Opcode) : Except DecodeReject Instr :=
  match (opcodeTable has).find? (fun r => r.matchesFields (fieldsOf w)) with
  | some r => .ok (r.build (fieldsOf w))
  | none => .error (.unrecognizedOpcode w)

/-- `Dispatch(w)` (R104): a total function of the opcode alone (R77). -/
def decodeOpcode (w : Opcode) : Except DecodeReject Instr :=
  decodeOpcodeWith Config.hasLdRegSneReg w

/-- Two consecutive bytes form an opcode big-endian: the byte at the lower address is bits 15 to 8 (R53). -/
def bigEndian (hi lo : Byte) : Opcode :=
  BitVec.ofNat 16 (hi.toNat * 256 + lo.toNat)

/-- Decode the instruction at the head of a byte sequence: every instruction takes exactly two bytes (R70). -/
def decode : List Byte → Except DecodeReject (Instr × List Byte)
  | hi :: lo :: rest =>
    match decodeOpcode (bigEndian hi lo) with
    | .ok i => .ok (i, rest)
    | .error e => .error e
  | _ => .error .tooShort

/-- The bytes of an opcode as memory holds them, big-endian (R53). -/
def opcodeBytes (w : Opcode) : List Byte :=
  [BitVec.ofNat 8 (w.toNat / 256), BitVec.ofNat 8 w.toNat]

/-- The instruction the decoder reads from a word numbered as spec/opcode_table.json numbers it. -/
def decodeTableWord (nbits w : Nat) : Option Instr :=
  match decode (opcodeBytes (BitVec.ofNat 16 (w % 2 ^ nbits))) with
  | .ok (i, _) => some i
  | .error _ => none

/-! ### The encoder, from the same table (R73, R74) -/

/-- The formats XY and XYN, and X and FIXED with their selector digits: four digits from bit 15 down. -/
def packDigits (op x y n : Fin 16) : Opcode :=
  BitVec.ofNat 16 (op.val * 4096 + x.val * 256 + y.val * 16 + n.val)

/-- The format XKK. -/
def packKk (op x : Fin 16) (kk : Byte) : Opcode :=
  BitVec.ofNat 16 (op.val * 4096 + x.val * 256 + kk.toNat)

/-- The format NNN. -/
def packNnn (op : Fin 16) (nnn : Addr12) : Opcode :=
  BitVec.ofNat 16 (op.val * 4096 + nnn.toNat)

/-- The opcode of an instruction. The ignored `y` of SHR and SHL is written 0: DESIGN CHOICE, safe: log 11. -/
def encode : Instr → Opcode
  | .halt => packDigits 0x0 0x0 0x0 0x0
  | .cls => packDigits 0x0 0x0 0xE 0x0
  | .ret => packDigits 0x0 0x0 0xE 0xE
  | .jp nnn => packNnn 0x1 nnn
  | .call nnn => packNnn 0x2 nnn
  | .seImm x kk => packKk 0x3 x kk
  | .sneImm x kk => packKk 0x4 x kk
  | .seReg x y => packDigits 0x5 x y 0x0
  | .ldImm x kk => packKk 0x6 x kk
  | .addImm x kk => packKk 0x7 x kk
  | .ldReg x y => packDigits 0x8 x y 0x0
  | .orReg x y => packDigits 0x8 x y 0x1
  | .andReg x y => packDigits 0x8 x y 0x2
  | .xorReg x y => packDigits 0x8 x y 0x3
  | .addReg x y => packDigits 0x8 x y 0x4
  | .subReg x y => packDigits 0x8 x y 0x5
  | .shr x => packDigits 0x8 x 0x0 0x6
  | .subnReg x y => packDigits 0x8 x y 0x7
  | .shl x => packDigits 0x8 x 0x0 0xE
  | .sneReg x y => packDigits 0x9 x y 0x0
  | .ldI nnn => packNnn 0xA nnn
  | .jpV0 nnn => packNnn 0xB nnn
  | .rnd x kk => packKk 0xC x kk
  | .drw x y n => packDigits 0xD x y n
  | .skp x => packDigits 0xE x 0x9 0xE
  | .sknp x => packDigits 0xE x 0xA 0x1
  | .ldVxDt x => packDigits 0xF x 0x0 0x7
  | .ldVxK x => packDigits 0xF x 0x0 0xA
  | .ldDtVx x => packDigits 0xF x 0x1 0x5
  | .ldStVx x => packDigits 0xF x 0x1 0x8
  | .addI x => packDigits 0xF x 0x1 0xE
  | .ldF x => packDigits 0xF x 0x2 0x9
  | .ldB x => packDigits 0xF x 0x3 0x3
  | .storeRegs x => packDigits 0xF x 0x5 0x5
  | .loadRegs x => packDigits 0xF x 0x6 0x5

/-- The two bytes of an instruction, big-endian (R53, R70). -/
def encodeBytes (i : Instr) : List Byte :=
  opcodeBytes (encode i)

end Sys2Proof
end

