-- ==== Sys2Proof/Machine/State.lean ====
section
/-! DEFINITION. The machine state (10_state.md): the tuple `(V, I, pc, STACK, SP, DT, ST, MEM, FB, REDRAW, KEYS, RUN)` and the
model's own counter of random draws; the reasons an outcome can stop; the state after construction. -/

namespace Sys2Proof.Machine

/-- The four kinds of synchronous fault (R230). A fault is recorded in `RUN` and the step answers that next state; none of
these is an outcome `fault` of a step (log 1). -/
inductive FaultKind where
  /-- CALL with SP = 16 (R122). -/
  | stackOverflow
  /-- RET with SP = 0 (R120). -/
  | stackUnderflow
  /-- A fetch, sprite, BCD or register-block access past 0xFFF, or a key index above 15 (R56, R101, R190, R191). -/
  | outOfBounds
  /-- An opcode with no matching handler (R106). -/
  | unimplementedInstruction
  deriving DecidableEq, Repr

/-- The run state RUN (R32). -/
inductive RunState where
  /-- Steps execute. -/
  | running
  /-- The halt opcode at address `a` executed (R105). -/
  | halted (a : Word)
  /-- A fault of kind `k` occurred in the instruction whose fetch started at address `a` (R231). -/
  | faulted (k : FaultKind) (a : Word)
  deriving DecidableEq, Repr

/-- What stops a model operation that is not a step. No step and no instruction answers a fault: the spec gives each of its
four faults a next state (R231). -/
inductive Fault where
  /-- Raised by `State.peek`, the host's diagnostic read of a byte (R242), for an address above 0xFFF, which does not exist
  (R50, R57). Safe: it stops. -/
  | noSuchAddress (a : Nat)
  deriving DecidableEq, Repr

/-- What the model gives no meaning to. No instruction answers a refusal. -/
inductive Refusal where
  /-- Raised by `exec` for an instruction whose meaning is not written; no arm does. Safe. -/
  | notModelled (mnemonic : String)
  /-- Raised by `State.load` for a program of `bytes` bytes, more than 3584: "refuse (no run; state unchanged)" (R261,
  decision D24). Safe: it stops. -/
  | programTooLarge (bytes : Nat)
  deriving DecidableEq, Repr

/-- MEM: the bytes that differ from their value after construction, addresses rising (R33, R50; log 12). -/
abbrev Memory := List Host.Cell

/-- FB: 32 rows of 64 one-bit cells. The flat cell `row * 64 + col` of R29 is bit `col` of row `row` (log 8). -/
abbrev Framebuffer := Vector (BitVec 64) 32

/-- The state of the Interpreter (10_state.md). -/
structure State where
  /-- V0 to VF (R20); VF is `v[15]` (R21). -/
  v : Vector Byte 16
  /-- The index register I (R23). -/
  i : Word
  /-- The program counter (R24). -/
  pc : Word
  /-- The call stack's 16 slots (R25). -/
  stack : Vector Word 16
  /-- The stack pointer, 0 to 16 inclusive (R26). -/
  sp : Fin 17
  /-- The delay timer (R27). -/
  dt : Byte
  /-- The sound timer (R28). -/
  st : Byte
  /-- The 4096-byte memory (R33). -/
  mem : Memory
  /-- The framebuffer (R29). -/
  fb : Framebuffer
  /-- The redraw-requested flag (R30). -/
  redraw : Bool
  /-- The 16 key-state flags (R31). -/
  keys : Vector Bool 16
  /-- The run state (R32). -/
  run : RunState
  /-- The model's own: how many random bytes have been drawn (log 3). -/
  draws : Nat
  deriving DecidableEq, Repr

/-- The state after construction (R35, R260) under the parameter `RESET_ZERO` (decision D11). `draws` = 0 is a DESIGN CHOICE:
log 3. -/
def State.resetWith (zero : Bool) : State where
  v := if zero then Vector.replicate 16 0 else Vector.ofFn (fun k => Config.freeResetV k.val)
  i := if zero then 0 else Config.freeResetI
  pc := BitVec.ofNat 16 Config.programOrigin
  stack := Vector.replicate 16 0
  sp := 0
  dt := if zero then 0 else Config.freeResetTimer 0
  st := if zero then 0 else Config.freeResetTimer 1
  mem := []
  fb := if zero then Vector.replicate 32 0 else Vector.ofFn (fun r => Config.freeResetRow r.val)
  redraw := false
  keys := Vector.replicate 16 false
  run := .running
  draws := 0

/-- The state after construction, the only reset (R260). -/
def State.reset : State :=
  State.resetWith Config.resetZero

/-- What an instruction or a step answers. -/
abbrev Result := Host.Outcome State Fault Refusal

end Sys2Proof.Machine
end

