-- ==== Sys2Proof/Machine/Operands.lean ====
section
/-! DEFINITION. Operand forms: registers, the widening of fields, effective addresses and bounds (00_scope.md R5, R7;
20_memory.md R56, R57; 44_timer_key_index_memory.md R202). -/

namespace Sys2Proof.Machine

/-- `V[x]` (R7, R20). -/
def State.getV (s : State) (x : RegIndex) : Byte :=
  s.v[x.val]

/-- `V[x] <- b` (R7, R20). A flag write is the ordinary write of `V[15]` (R21). -/
def State.setV (s : State) (x : RegIndex) (b : Byte) : State :=
  { s with v := s.v.set x.val b }

/-- `I <- w` (R7, R23). -/
def State.setI (s : State) (w : Word) : State :=
  { s with i := w }

/-- `pc <- w` (R7, R24). -/
def State.setPc (s : State) (w : Word) : State :=
  { s with pc := w }

/-- `DT <- b` (R27). -/
def State.setDt (s : State) (b : Byte) : State :=
  { s with dt := b }

/-- `ST <- b` (R28). -/
def State.setSt (s : State) (b : Byte) : State :=
  { s with st := b }

/-- `zext_16` of the address field (R5, R72). -/
def zextAddr (nnn : Addr12) : Word :=
  nnn.setWidth 16

/-- `zext_16` of a register's value (R5). -/
def zextByte (b : Byte) : Word :=
  b.setWidth 16

/-- The effective address I + k, an unbounded natural (R202). -/
def State.effectiveAddress (s : State) (k : Nat) : Nat :=
  s.i.toNat + k

/-- `InBounds(a, n)`: n = 0, or the last of the n bytes at a has an address ≤ 0xFFF (R57; decision D8.
UNVERIFIED, unsafe: log 18). -/
def inBounds (a n : Nat) : Bool :=
  decide (n = 0 ∨ a + n - 1 ≤ Config.addrMax)

/-- The key index V[x] selects: none when V[x] > 15 (R190, R191). -/
def State.keyIndex (s : State) (x : RegIndex) : Option (Fin 16) :=
  if h : (s.getV x).toNat ≤ 15 then some ⟨(s.getV x).toNat, by omega⟩ else none

/-- `KEYS[k]` (R31). -/
def State.keyPressed (s : State) (k : Fin 16) : Bool :=
  s.keys[k.val]

/-- `min { k | KEYS[k] }`, none when no key is pressed (R193; decision D19). -/
def State.lowestKey (s : State) : Option Nat :=
  s.keys.toList.findIdx? id

/-- The glyph address `FONT_BASE + 5 * b`, not masked (R198). -/
def glyphAddress (b : Byte) : Word :=
  BitVec.ofNat 16 (Config.fontBase + Config.fontGlyphBytes * b.toNat)

/-- The decimal digits of `b`, hundreds first (R199). -/
def decimalDigits (b : Byte) : List Byte :=
  [BitVec.ofNat 8 (b.toNat / 100), BitVec.ofNat 8 (b.toNat / 10 % 10), BitVec.ofNat 8 (b.toNat % 10)]

end Sys2Proof.Machine
end

