-- ==== Sys2Proof/Machine/Flags.lean ====
section
/-! DEFINITION. Results and flags of the arithmetic instructions (42_arithmetic.md R141 to R152): computed exactly, then reduced
mod 256. VF is the only flag (10_state.md R22). -/

namespace Sys2Proof.Machine

/-- A flag's byte: 1 or 0. -/
def flagByte (b : Bool) : Byte :=
  if b then 1 else 0

/-- `(a + b) mod 256` (R141, R146). -/
def addByte (a b : Byte) : Byte :=
  BitVec.ofNat 8 (a.toNat + b.toNat)

/-- The carry of a + b: "exactly when `Vx+Vy > 255` before truncation" (R146). -/
def carryFlag (a b : Byte) : Byte :=
  flagByte (decide (a.toNat + b.toNat > 255))

/-- `(a - b) mod 256`, that is a − b + 256 when a < b (R147). -/
def subByte (a b : Byte) : Byte :=
  BitVec.ofNat 8 (a.toNat + 256 - b.toNat)

/-- Not-borrow of a − b: 0 exactly when a < b, else 1 (R147, R149). -/
def notBorrowFlag (a b : Byte) : Byte :=
  flagByte (decide (¬ a.toNat < b.toNat))

/-- `b >> 1`, a zero shifted in (R148, R152). -/
def shiftRightByte (b : Byte) : Byte :=
  BitVec.ofNat 8 (b.toNat / 2)

/-- The bit a right shift moves out: `b & 1` (R148). -/
def shiftedOutRight (b : Byte) : Byte :=
  flagByte (decide (b.toNat % 2 = 1))

/-- `(b << 1) mod 256`, a zero shifted in (R150, R152). -/
def shiftLeftByte (b : Byte) : Byte :=
  BitVec.ofNat 8 (b.toNat * 2)

/-- The bit a left shift moves out: `(b >> 7) & 1` (R150). -/
def shiftedOutLeft (b : Byte) : Byte :=
  flagByte (decide (b.toNat / 128 % 2 = 1))

/-- A shift of register x under a reading of `SHIFT_VF_DEST` (R148, R150; decision D7, U7): `out` computes the bit shifted
out, `shift` the shifted byte. The readings differ only when x = 15. -/
def State.shiftRegister (m : Config.ShiftVfDest) (x : RegIndex) (out shift : Byte → Byte) (s : State) : State :=
  match m with
  | .sequential =>
    let flagged := s.setV vf (out (s.getV x))
    flagged.setV x (shift (flagged.getV x))
  | .snapshotResult => (s.setV vf (out (s.getV x))).setV x (shift (s.getV x))
  | .flagLast => (s.setV x (shift (s.getV x))).setV vf (out (s.getV x))

end Sys2Proof.Machine
end

