-- ==== Sys2Proof/Machine/Ops.lean ====
section
/-! DEFINITION. The shared operations: memory, the call stack, pc, the framebuffer, fetch, and taking a fault. -/

namespace Sys2Proof.Machine

/-! ### Memory (20_memory.md) -/

/-- What an address reads as when nothing has been written to it: its content after construction, the font table at 0x050 to
0x09F and zero elsewhere (R35, R36, R51). -/
def Memory.resetByte (a : Nat) : Byte :=
  if Config.fontBase ≤ a ∧ a < Config.fontBase + Config.fontBytes then Config.font.getD (a - Config.fontBase) 0 else 0

/-- `MemRead(a, 1)` (R57). Callers establish a ≤ 0xFFF first (R56). -/
def Memory.read : Memory → Nat → Byte
  | [], a => Memory.resetByte a
  | (b, u) :: m, a => if b = a then u else Memory.read m a

/-- Insert a cell before the first higher address. -/
def Memory.insert (a : Nat) (u : Byte) : Memory → Memory
  | [] => [(a, u)]
  | (b, w) :: m => if a < b then (a, u) :: (b, w) :: m else (b, w) :: Memory.insert a u m

/-- `MemWrite(a, 1, u)` (R57): the address's entry is dropped, and entered anew unless `u` is what it reads as unlisted. -/
def Memory.write (m : Memory) (a : Nat) (u : Byte) : Memory :=
  let rest := m.filter (fun c => decide (c.1 ≠ a))
  if u = Memory.resetByte a then rest else Memory.insert a u rest

/-- The canonical form: addresses strictly rising and inside memory, and no entry equal to what its address reads as
unlisted. -/
abbrev Memory.wf (m : Memory) : Prop :=
  m.Pairwise (fun c d => c.1 < d.1) ∧ ∀ c ∈ m, c.1 ≤ Config.addrMax ∧ c.2 ≠ Memory.resetByte c.1

/-- Write bytes at rising addresses from `a`, in order (R60). -/
def Memory.writeBytes (m : Memory) (a : Nat) : List Byte → Memory
  | [] => m
  | u :: us => Memory.writeBytes (m.write a u) (a + 1) us

/-- Read `n` bytes at rising addresses from `a`. -/
def Memory.readBytes (m : Memory) (a n : Nat) : List Byte :=
  (List.range n).map (fun k => m.read (a + k))

/-! ### The program counter and the call stack -/

/-- "`pc` is advanced by 2 immediately after fetch, before the instruction body executes" (R102). -/
def State.advance (s : State) : State :=
  s.setPc (s.pc + 2)

/-- A skip "adds a further 2 to pc" when its condition holds (41_control_flow.md, R123). -/
def State.skipIf (s : State) (c : Bool) : State :=
  if c then s.setPc (s.pc + 2) else s

/-- `pc <- pc - 2`: the same instruction is fetched at the next step (R193). -/
def State.rewind (s : State) : State :=
  s.setPc (s.pc - 2)

/-- The address A of the executing instruction: handlers see pc = A + 2 (R102; log 2). -/
def State.instrAddress (s : State) : Word :=
  s.pc - 2

/-- CALL's push: `STACK[SP] <- pc; SP <- SP + 1` (R122). -/
def State.pushReturn (s : State) (h : s.sp.val < Config.stackDepth) : State :=
  { s with stack := s.stack.set s.sp.val s.pc h, sp := ⟨s.sp.val + 1, Nat.succ_lt_succ h⟩ }

/-- RET's pop: `SP <- SP - 1; pc <- STACK[SP]`. The slot keeps its value (R120, R25; decision D33.
UNVERIFIED, safe: log 25). -/
def State.popReturn (s : State) (h : 0 < s.sp.val) : State :=
  { s with
    sp := ⟨s.sp.val - 1, Nat.lt_of_le_of_lt (Nat.sub_le _ _) s.sp.isLt⟩
    pc := s.stack[s.sp.val - 1]'(Nat.lt_of_lt_of_le (Nat.sub_lt h Nat.one_pos) (Nat.le_of_lt_succ s.sp.isLt)) }

/-! ### Taking a fault (60_exceptions.md R230 to R237)

The spec's only exceptions are its four faults. Taking one is this one operation, and there is no return from it: "There is
no trap entry" (R236), "There is no trap return" (R237), and a fault is final (R232). -/

/-- The numeric code of a fault kind (R230; decision D27. UNVERIFIED, safe: log 30). -/
def FaultKind.code : FaultKind → Nat
  | .stackOverflow => 1
  | .stackUnderflow => 2
  | .outOfBounds => 3
  | .unimplementedInstruction => 4

/-- `RUN <- Faulted(kind, a)`: nothing else changes (R231, R233). -/
def State.faultAt (s : State) (k : FaultKind) (a : Word) : State :=
  { s with run := .faulted k a }

/-- `raise kind(A)` from a handler or from dispatch: A is the executing instruction's address and pc keeps A + 2 (R107, R231). -/
def State.raise (s : State) (k : FaultKind) : State :=
  s.faultAt k s.instrAddress

/-- The fault discipline of execute (R107): when the handler's condition `ok` fails it raises its fault without writing any
state; otherwise it performs all its writes (decision D9. UNVERIFIED, unsafe: log 18). -/
def State.unlessFault (s : State) (ok : Bool) (k : FaultKind) (done : State) : Result :=
  .next (if ok then done else s.raise k)

/-! ### Ending a run -/

/-- `RUN <- Halted(A)` (R105). -/
def State.halt (s : State) : State :=
  { s with run := .halted s.instrAddress }

/-! ### Fetch (40_fetch_dispatch.md R101) -/

/-- The two bytes at pc; none when pc + 1 > 0xFFF (R101; decision D8). No alignment check (R54; decision D10.
UNVERIFIED, unsafe: log 21). -/
def State.fetch (s : State) : Option (List Byte) :=
  if inBounds s.pc.toNat 2 then some (s.mem.readBytes s.pc.toNat 2) else none

/-! ### Register-block transfers (R200, R201) -/

/-- V0 to Vx, in order. -/
def State.registersTo (s : State) (x : RegIndex) : List Byte :=
  s.v.toList.take (x.val + 1)

/-- `for i in 0 .. x: V[i] <- MemRead(I + i, 1)` (R201). -/
def State.loadRegisters (s : State) (x : RegIndex) : State :=
  { s with v := Vector.ofFn (fun k : Fin 16 =>
      if k.val ≤ x.val then s.mem.read (s.effectiveAddress k.val) else s.getV k) }

/-- Write bytes at rising addresses from I (R199, R200). -/
def State.storeAtI (s : State) (us : List Byte) : State :=
  { s with mem := s.mem.writeBytes (s.effectiveAddress 0) us }

/-! ### The framebuffer (43_graphics.md) -/

/-- `FB[k]` (R7, R29). -/
def Framebuffer.cell (fb : Framebuffer) (k : Nat) : Bool :=
  (fb[k / Config.fbWidth]?.getD 0).getLsbD (k % Config.fbWidth)

/-- The index of the cell at a row and a column (R29). -/
def cellIndex (row col : Nat) : Nat :=
  row * Config.fbWidth + col

/-- `FB[k] <- FB[k] ^ 1` (R171). -/
def Framebuffer.toggle (fb : Framebuffer) (k : Nat) : Framebuffer :=
  fb.setIfInBounds (k / Config.fbWidth)
    (fb[k / Config.fbWidth]?.getD 0 ^^^ BitVec.twoPow 64 (k % Config.fbWidth))

/-- One sprite pixel that is 1, at cell k: the collision is tested before the XOR write (R171). The pair is the framebuffer
and the collision so far. -/
def plotPixel (acc : Framebuffer × Bool) (k : Nat) : Framebuffer × Bool :=
  (acc.1.toggle k, acc.2 || acc.1.cell k)

/-- A byte's pixel at column offset c: bit 7 is the leftmost (R172; decision D12. PRESUMED by the spec, unsafe:
log 10). -/
def spritePixel (b : Byte) (c : Nat) : Bool :=
  b.getLsbD (7 - c)

/-- One sprite row on screen row `row`, its leftmost pixel at column `cx`, each pixel wrapping by itself (R171). -/
def plotRow (row cx : Nat) (b : Byte) (acc : Framebuffer × Bool) : Framebuffer × Bool :=
  [0, 1, 2, 3, 4, 5, 6, 7].foldl
    (fun acc c => if spritePixel b c then plotPixel acc (cellIndex row ((cx + c) % Config.fbWidth)) else acc) acc

/-- The sprite's rows from the top (R171): `cy` is the screen row, not yet reduced, of the first byte. -/
def plotRows (cx : Nat) : Nat → List Byte → Framebuffer × Bool → Framebuffer × Bool
  | _, [], acc => acc
  | cy, b :: bs, acc => plotRows cx (cy + 1) bs (plotRow (cy % Config.fbHeight) cx b acc)

/-- The sprite DRW draws: the n bytes at I (R171, R172). -/
def State.sprite (s : State) (n : Nat) : List Byte :=
  s.mem.readBytes (s.effectiveAddress 0) n

/-- The framebuffer and the collision after drawing the n-byte sprite at I, at column V[x] mod 64 and row V[y] mod 32 (R171). -/
def State.drawSprite (s : State) (x y : RegIndex) (n : Nat) : Framebuffer × Bool :=
  plotRows ((s.getV x).toNat % Config.fbWidth) ((s.getV y).toNat % Config.fbHeight) (s.sprite n) (s.fb, false)

/-- A screen instruction's new framebuffer; it also sets REDRAW (R170, R171; decision D20. UNVERIFIED, unsafe:
log 20). -/
def State.setScreen (s : State) (fb : Framebuffer) : State :=
  { s with fb := fb, redraw := true }

/-- The framebuffer with every cell 0 (R170). -/
def Framebuffer.clear : Framebuffer :=
  Vector.replicate 32 0

/-! ### The random source (60_exceptions.md R246) -/

/-- `RandomByte()`: the byte the host's source answers now, a free value (log 3). -/
def State.randomByte (s : State) : Byte :=
  Config.randomByte s.draws

/-- The draw is used up: "one oracle draw per execution" (R151). -/
def State.countDraw (s : State) : State :=
  { s with draws := s.draws + 1 }

end Sys2Proof.Machine
end

