-- ==== Sys2Proof/Machine/Arithmetic.lean ====
section
/-! DEFINITION. Register loads, arithmetic, logic, shifts and random (42_arithmetic.md). No instruction here can fault. Where a
rule also writes VF as the flag, the writes stand in the rule's order (decision D7). -/

namespace Sys2Proof.Machine

/-- LD Vx, kk (R140). -/
def execLdImm (x : RegIndex) (kk : Byte) (s : State) : Result :=
  .next (s.setV x kk)

/-- ADD Vx, kk (R141): no carry is recorded. -/
def execAddImm (x : RegIndex) (kk : Byte) (s : State) : Result :=
  .next (s.setV x (addByte (s.getV x) kk))

/-- LD Vx, Vy (R142). -/
def execLdReg (x y : RegIndex) (s : State) : Result :=
  .next (s.setV x (s.getV y))

/-- OR Vx, Vy (R143). -/
def execOrReg (x y : RegIndex) (s : State) : Result :=
  .next (s.setV x (s.getV x ||| s.getV y))

/-- AND Vx, Vy (R144). -/
def execAndReg (x y : RegIndex) (s : State) : Result :=
  .next (s.setV x (s.getV x &&& s.getV y))

/-- XOR Vx, Vy (R145). -/
def execXorReg (x y : RegIndex) (s : State) : Result :=
  .next (s.setV x (s.getV x ^^^ s.getV y))

/-- ADD Vx, Vy (R146): the flag is written last. -/
def execAddReg (x y : RegIndex) (s : State) : Result :=
  .next ((s.setV x (addByte (s.getV x) (s.getV y))).setV vf (carryFlag (s.getV x) (s.getV y)))

/-- SUB Vx, Vy (R147): the flag is written last. -/
def execSubReg (x y : RegIndex) (s : State) : Result :=
  .next ((s.setV x (subByte (s.getV x) (s.getV y))).setV vf (notBorrowFlag (s.getV x) (s.getV y)))

/-- SHR Vx (R148). -/
def execShr (x : RegIndex) (s : State) : Result :=
  .next (s.shiftRegister Config.shiftVfDest x shiftedOutRight shiftRightByte)

/-- SUBN Vx, Vy (R149): the flag is written last. -/
def execSubnReg (x y : RegIndex) (s : State) : Result :=
  .next ((s.setV x (subByte (s.getV y) (s.getV x))).setV vf (notBorrowFlag (s.getV y) (s.getV x)))

/-- SHL Vx (R150). -/
def execShl (x : RegIndex) (s : State) : Result :=
  .next (s.shiftRegister Config.shiftVfDest x shiftedOutLeft shiftLeftByte)

/-- RND Vx, kk (R151). -/
def execRnd (x : RegIndex) (kk : Byte) (s : State) : Result :=
  .next ((s.setV x (s.randomByte &&& kk)).countDraw)

end Sys2Proof.Machine
end

