-- ==== Sys2Proof/Machine/ControlFlow.lean ====
section
/-! DEFINITION. HALT and the control-flow instructions (40_fetch_dispatch.md R105; 41_control_flow.md). Every handler runs with
pc already advanced (R102). -/

namespace Sys2Proof.Machine

/-- HALT (R105). -/
def execHalt (s : State) : Result :=
  .next s.halt

/-- RET (R120). -/
def execRet (s : State) : Result :=
  .next (if h : 0 < s.sp.val then s.popReturn h else s.raise .stackUnderflow)

/-- JP nnn (R121). -/
def execJp (nnn : Addr12) (s : State) : Result :=
  .next (s.setPc (zextAddr nnn))

/-- CALL nnn (R122). -/
def execCall (nnn : Addr12) (s : State) : Result :=
  .next (if h : s.sp.val < Config.stackDepth then (s.pushReturn h).setPc (zextAddr nnn) else s.raise .stackOverflow)

/-- SE Vx, kk (R123). -/
def execSeImm (x : RegIndex) (kk : Byte) (s : State) : Result :=
  .next (s.skipIf (decide (s.getV x = kk)))

/-- SNE Vx, kk (R124). -/
def execSneImm (x : RegIndex) (kk : Byte) (s : State) : Result :=
  .next (s.skipIf (decide (s.getV x ≠ kk)))

/-- SE Vx, Vy (R125). -/
def execSeReg (x y : RegIndex) (s : State) : Result :=
  .next (s.skipIf (decide (s.getV x = s.getV y)))

/-- SNE Vx, Vy (R126). -/
def execSneReg (x y : RegIndex) (s : State) : Result :=
  .next (s.skipIf (decide (s.getV x ≠ s.getV y)))

/-- JP V0, nnn (R127): a 16-bit sum, not masked to 12 bits (decision D31. UNVERIFIED, safe: log 19). -/
def execJpV0 (nnn : Addr12) (s : State) : Result :=
  .next (s.setPc (zextByte (s.getV 0) + zextAddr nnn))

end Sys2Proof.Machine
end

