-- ==== Sys2Proof/Machine/Graphics.lean ====
section
/-! DEFINITION. Clear screen and sprite draw (43_graphics.md). -/

namespace Sys2Proof.Machine

/-- CLS (R170). -/
def execCls (s : State) : Result :=
  .next (s.setScreen Framebuffer.clear)

/-- DRW Vx, Vy, n (R171): the coordinates are read before VF is written, and the bounds are checked before any write
(decision D21. UNVERIFIED, unsafe: log 20). -/
def execDrw (x y : RegIndex) (n : Fin 16) (s : State) : Result :=
  s.unlessFault (inBounds (s.effectiveAddress 0) n.val) .outOfBounds
    ((s.setScreen (s.drawSprite x y n.val).1).setV vf (flagByte (s.drawSprite x y n.val).2))

end Sys2Proof.Machine
end

