-- ==== Sys2Proof/Machine/IndexAndMemory.lean ====
section
/-! DEFINITION. The index register, BCD and register-block transfers (44_timer_key_index_memory.md §3, §4). -/

namespace Sys2Proof.Machine

/-- LD I, nnn (R196). -/
def execLdI (nnn : Addr12) (s : State) : Result :=
  .next (s.setI (zextAddr nnn))

/-- ADD I, Vx (R197): mod 65536, VF unchanged (decision D16. UNVERIFIED, unsafe: log 19). -/
def execAddI (x : RegIndex) (s : State) : Result :=
  .next (s.setI (BitVec.ofNat 16 (s.i.toNat + (s.getV x).toNat)))

/-- LD F, Vx (R198): no mask and no fault (decision D17. UNVERIFIED, unsafe: log 19). -/
def execLdF (x : RegIndex) (s : State) : Result :=
  .next (s.setI (glyphAddress (s.getV x)))

/-- LD B, Vx (R199): I is unchanged. -/
def execLdB (x : RegIndex) (s : State) : Result :=
  s.unlessFault (inBounds (s.effectiveAddress 0) 3) .outOfBounds (s.storeAtI (decimalDigits (s.getV x)))

/-- LD [I], Vx (R200): I is unchanged (decision D15. UNVERIFIED, unsafe: log 19). -/
def execStoreRegs (x : RegIndex) (s : State) : Result :=
  s.unlessFault (inBounds (s.effectiveAddress 0) (x.val + 1)) .outOfBounds (s.storeAtI (s.registersTo x))

/-- LD Vx, [I] (R201): I is unchanged (decision D15. UNVERIFIED, unsafe: log 19). -/
def execLoadRegs (x : RegIndex) (s : State) : Result :=
  s.unlessFault (inBounds (s.effectiveAddress 0) (x.val + 1)) .outOfBounds (s.loadRegisters x)

end Sys2Proof.Machine
end

