-- ==== Sys2Proof/Machine/KeysAndTimers.lean ====
section
/-! DEFINITION. Keys and timers (44_timer_key_index_memory.md §1, §2). -/

namespace Sys2Proof.Machine

/-- SKP Vx (R190): OutOfBounds when V[x] > 15 (decision D18. UNVERIFIED, safe: log 17). -/
def execSkp (x : RegIndex) (s : State) : Result :=
  .next (match s.keyIndex x with
    | some k => s.skipIf (s.keyPressed k)
    | none => s.raise .outOfBounds)

/-- SKNP Vx (R191): OutOfBounds when V[x] > 15 (decision D18. UNVERIFIED, safe: log 17). -/
def execSknp (x : RegIndex) (s : State) : Result :=
  .next (match s.keyIndex x with
    | some k => s.skipIf (!s.keyPressed k)
    | none => s.raise .outOfBounds)

/-- LD Vx, K (R193): the lowest pressed key (decision D19. UNVERIFIED, unsafe: log 16), or the same instruction again. -/
def execLdVxK (x : RegIndex) (s : State) : Result :=
  .next (match s.lowestKey with
    | some k => s.setV x (BitVec.ofNat 8 k)
    | none => s.rewind)

/-- LD Vx, DT (R192). -/
def execLdVxDt (x : RegIndex) (s : State) : Result :=
  .next (s.setV x s.dt)

/-- LD DT, Vx (R194). -/
def execLdDtVx (x : RegIndex) (s : State) : Result :=
  .next (s.setDt (s.getV x))

/-- LD ST, Vx (R195). -/
def execLdStVx (x : RegIndex) (s : State) : Result :=
  .next (s.setSt (s.getV x))

end Sys2Proof.Machine
end

