-- ==== Sys2Proof/Machine/Step.lean ====
section
/-! DEFINITION. `step()` (40_fetch_dispatch.md R100 to R109), and the placing of an instruction where it is fetched next. -/

namespace Sys2Proof.Machine

/-- One call of `step()`: fetch, advance, decode and dispatch, execute. Nothing changes once the run has ended (R100). -/
def step (s : State) : Host.Outcome State Fault Refusal :=
  match s.run with
  | .running =>
    match s.fetch with
    | none => .next (s.faultAt .outOfBounds s.pc)
    | some bytes =>
      match decode bytes with
      | .error _ => .next (s.advance.raise .unimplementedInstruction)
      | .ok (i, _) => exec i s.advance
  | .halted _ => .next s
  | .faulted _ _ => .next s

/-- `s` with the instruction word `w` stored where the next step fetches: at pc, big-endian, the run going on. Where no fetch
at pc can succeed (pc > 0xFFE), pc is first set to the program origin (log 15). -/
def State.withFetchWord (s : State) (nbits w : Nat) : State :=
  let pc := if inBounds s.pc.toNat 2 then s.pc else BitVec.ofNat 16 Config.programOrigin
  { s with
    pc := pc
    run := .running
    mem := s.mem.writeBytes pc.toNat (opcodeBytes (BitVec.ofNat 16 (w % 2 ^ nbits))) }

end Sys2Proof.Machine
end

