-- ==== Sys2Proof/Machine/HostInterface.lean ====
section
/-! DEFINITION. The host's operations (60_exceptions.md R239 to R246; 70_reset_and_hazards.md R260 to R262). They are not part of
`step`: the schedule of host operations is a free parameter (R243), so a claim over schedules is a claim for every list of
`HostOp`. DEDUCED, unsafe for claims about runs of `step` alone: log 13. -/

namespace Sys2Proof.Machine

/-- A timer's tick: "floored at 0 (never wraps negative)" (R239). -/
def tickTimer (b : Byte) : Byte :=
  if b = 0 then 0 else b - 1

/-- `tick_timers()` (R239): nothing once the run has ended (decision D22. UNVERIFIED, unsafe: log 24). -/
def State.tickTimers (s : State) : State :=
  match s.run with
  | .running => (s.setDt (tickTimer s.dt)).setSt (tickTimer s.st)
  | .halted _ => s
  | .faulted _ _ => s

/-- `set_keys(k)` (R244): all 16 flags at once, in any run state. -/
def State.setKeys (s : State) (k : Vector Bool 16) : State :=
  { s with keys := k }

/-- `clear_redraw()` (R245). -/
def State.clearRedraw (s : State) : State :=
  { s with redraw := false }

/-- `load(p)` (R261): the program's bytes from 0x200, or no run when it does not fit. The precondition "once, after construct,
before the first step" (R242) is the caller's: log 14. -/
def State.load (s : State) (p : List Byte) : Result :=
  if Config.programOrigin + p.length > Config.memSize then .refused (.programTooLarge p.length)
  else .next { s with mem := s.mem.writeBytes Config.programOrigin p }

/-- The boot sequence: construct, then load (R262). -/
def boot (p : List Byte) : Result :=
  State.reset.load p

/-- What the host reads of RUN (R109, R242). -/
def State.readRun (s : State) : RunState :=
  s.run

/-- The framebuffer snapshot: the cell at a row and a column (R245). -/
def State.readCell (s : State) (row col : Nat) : Bool :=
  s.fb.cell (cellIndex row col)

/-- The redraw-requested signal (R245). -/
def State.readRedraw (s : State) : Bool :=
  s.redraw

/-- The host's diagnostic read of a byte of memory (R242): an address above 0xFFF does not exist (R50, R57). DESIGN
CHOICE, safe: log 27. -/
def State.peek (s : State) (a : Nat) : Host.Outcome Byte Fault Refusal :=
  if inBounds a 1 then .next (s.mem.read a) else .fault (.noSuchAddress a)

/-- The operations a schedule is made of (R243). -/
inductive HostOp where
  /-- `step()`. -/
  | step
  /-- `tick_timers()`. -/
  | tickTimers
  /-- `set_keys(k)`. -/
  | setKeys (k : Vector Bool 16)
  /-- `clear_redraw()`. -/
  | clearRedraw
  deriving DecidableEq, Repr

/-- One host operation: one atomic transition (R243, R271). -/
def hostOp (o : HostOp) (s : State) : Result :=
  match o with
  | .step => Sys2Proof.Machine.step s
  | .tickTimers => .next s.tickTimers
  | .setKeys k => .next (s.setKeys k)
  | .clearRedraw => .next s.clearRedraw

/-- A schedule, its operations in order (R243). -/
def runSchedule : List HostOp → State → Result
  | [], s => .next s
  | o :: os, s =>
    match hostOp o s with
    | .next t => runSchedule os t
    | .fault r => .fault r
    | .refused r => .refused r

end Sys2Proof.Machine
end

