-- ==== Sys2Proof/WellFormed.lean ====
section
/-! DEFINITION. Which instructions exist. Every operand's range is in its type (a register index is a Fin 16, an address
12 bits, a height a Fin 16), so the one check left is the configuration's: with `HAS_LD_REG_SNE_REG` false, 8xy0 and 9xy0
are no instructions (00_scope.md R4, 92_eei_decisions.md D3). -/

namespace Sys2Proof

/-- The instructions of a core whose `HAS_LD_REG_SNE_REG` is `has`. -/
def Instr.wellFormedWith (has : Bool) : Instr → Bool
  | .ldReg _ _ => has
  | .sneReg _ _ => has
  | .halt | .cls | .ret | .jp _ | .call _ | .seImm _ _ | .sneImm _ _ | .seReg _ _ | .ldImm _ _ | .addImm _ _
  | .orReg _ _ | .andReg _ _ | .xorReg _ _ | .addReg _ _ | .subReg _ _ | .shr _ | .subnReg _ _ | .shl _
  | .ldI _ | .jpV0 _ | .rnd _ _ | .drw _ _ _ | .skp _ | .sknp _ | .ldVxDt _ | .ldVxK _ | .ldDtVx _ | .ldStVx _
  | .addI _ | .ldF _ | .ldB _ | .storeRegs _ | .loadRegs _ => true

/-- The instructions of this core. -/
def Instr.wellFormed (i : Instr) : Bool :=
  i.wellFormedWith Config.hasLdRegSneReg

end Sys2Proof
end

