-- ==== Sys2Proof/Safety.lean ====
section
/-! DEFINITION. What claims speak of: how a run ends, which pieces of state change, the conditions on which an instruction
faults, the invariants, and what a program cannot observe. Nothing here is used by the machine. -/

namespace Sys2Proof.Machine

/-- "Successful end" of a run (R264): the halt opcode executed. -/
abbrev State.successfulEnd (s : State) : Prop :=
  ∃ a, s.run = .halted a

/-- "Failed end" of a run (R264): final but not successful. -/
abbrev State.failedEnd (s : State) : Prop :=
  ∃ k a, s.run = .faulted k a

/-- A safe run so far: no fault has been raised (R232, R264). -/
abbrev State.safe (s : State) : Prop :=
  ¬ s.failedEnd

/-- The pieces of the state, one by one. -/
inductive Part where
  /-- Register Vk. -/
  | v (k : RegIndex)
  | i
  | pc
  /-- Slot k of the call stack. -/
  | slot (k : Nat)
  | sp
  | dt
  | st
  /-- The byte of memory at address a. -/
  | byte (a : Nat)
  /-- The whole framebuffer. -/
  | fb
  | redraw
  | keys
  | run
  | draws
  deriving DecidableEq, Repr

/-- Every piece of state not listed is the same in `t` as in `s`: the frame of an instruction (R108). Memory is compared byte by
byte, at every address. -/
structure ChangesOnly (parts : List Part) (s t : State) : Prop where
  v : ∀ k : RegIndex, .v k ∉ parts → t.getV k = s.getV k
  i : .i ∉ parts → t.i = s.i
  pc : .pc ∉ parts → t.pc = s.pc
  slot : ∀ k : Nat, .slot k ∉ parts → t.stack[k]? = s.stack[k]?
  sp : .sp ∉ parts → t.sp = s.sp
  dt : .dt ∉ parts → t.dt = s.dt
  st : .st ∉ parts → t.st = s.st
  byte : ∀ a : Nat, .byte a ∉ parts → t.mem.read a = s.mem.read a
  fb : .fb ∉ parts → t.fb = s.fb
  redraw : .redraw ∉ parts → t.redraw = s.redraw
  keys : .keys ∉ parts → t.keys = s.keys
  run : .run ∉ parts → t.run = s.run
  draws : .draws ∉ parts → t.draws = s.draws

/-- The opcode at pc, big-endian (R53, R101). -/
def State.opcodeAtPc (s : State) : Opcode :=
  bigEndian (s.mem.read s.pc.toNat) (s.mem.read (s.pc.toNat + 1))

/-- The fault an instruction raises in a state, if any (R230, R234, R270). -/
def faultCondition : Instr → State → Option FaultKind
  | .call _, s => if s.sp.val = 16 then some .stackOverflow else none
  | .ret, s => if s.sp.val = 0 then some .stackUnderflow else none
  | .drw _ _ n, s => if 0 < n.val ∧ 0xFFF < s.i.toNat + n.val - 1 then some .outOfBounds else none
  | .ldB _, s => if 0xFFF < s.i.toNat + 2 then some .outOfBounds else none
  | .storeRegs x, s => if 0xFFF < s.i.toNat + x.val then some .outOfBounds else none
  | .loadRegs x, s => if 0xFFF < s.i.toNat + x.val then some .outOfBounds else none
  | .skp x, s => if 15 < (s.getV x).toNat then some .outOfBounds else none
  | .sknp x, s => if 15 < (s.getV x).toNat then some .outOfBounds else none
  | .halt, _ | .cls, _ | .jp _, _ | .seImm _ _, _ | .sneImm _ _, _ | .seReg _ _, _ | .ldImm _ _, _ | .addImm _ _, _
  | .ldReg _ _, _ | .orReg _ _, _ | .andReg _ _, _ | .xorReg _ _, _ | .addReg _ _, _ | .subReg _ _, _ | .shr _, _
  | .subnReg _ _, _ | .shl _, _ | .sneReg _ _, _ | .ldI _, _ | .jpV0 _, _ | .rnd _ _, _ | .ldVxDt _, _ | .ldVxK _, _
  | .ldDtVx _, _ | .ldStVx _, _ | .addI _, _ | .ldF _, _ => none

/-- An instruction writes register `k`: as its named destination, as one of the block LD Vx, [I] loads, or, for VF, as its flag
(R22, R108). -/
def mayWriteRegister (k : RegIndex) : Instr → Prop
  | .ldImm x _ | .addImm x _ | .ldReg x _ | .orReg x _ | .andReg x _ | .xorReg x _ | .rnd x _ | .ldVxDt x | .ldVxK x => k = x
  | .addReg x _ | .subReg x _ | .shr x | .subnReg x _ | .shl x => k = x ∨ k = vf
  | .drw _ _ _ => k = vf
  | .loadRegs x => k ≤ x
  | .halt | .cls | .ret | .jp _ | .call _ | .seImm _ _ | .sneImm _ _ | .seReg _ _ | .sneReg _ _ | .ldI _ | .jpV0 _ | .skp _
  | .sknp _ | .ldDtVx _ | .ldStVx _ | .addI _ | .ldF _ | .ldB _ | .storeRegs _ => False

/-- The instruction stores byte `b` at address `a`: a decimal digit of Vx at I, I + 1 or I + 2 (R199), or Vk at I + k for a k ≤ x
(R200). No other instruction stores (R55). -/
def storesByte : Instr → State → Nat → Byte → Prop
  | .ldB x, s, a, b =>
    (a = s.i.toNat ∧ b.toNat = (s.getV x).toNat / 100) ∨ (a = s.i.toNat + 1 ∧ b.toNat = (s.getV x).toNat / 10 % 10) ∨
      (a = s.i.toNat + 2 ∧ b.toNat = (s.getV x).toNat % 10)
  | .storeRegs x, s, a, b => ∃ k : RegIndex, k ≤ x ∧ a = s.i.toNat + k.val ∧ b = s.getV k
  | .halt, _, _, _ | .cls, _, _, _ | .ret, _, _, _ | .jp _, _, _, _ | .call _, _, _, _ | .seImm _ _, _, _, _
  | .sneImm _ _, _, _, _ | .seReg _ _, _, _, _ | .ldImm _ _, _, _, _ | .addImm _ _, _, _, _ | .ldReg _ _, _, _, _
  | .orReg _ _, _, _, _ | .andReg _ _, _, _, _ | .xorReg _ _, _, _, _ | .addReg _ _, _, _, _ | .subReg _ _, _, _, _
  | .shr _, _, _, _ | .subnReg _ _, _, _, _ | .shl _, _, _, _ | .sneReg _ _, _, _, _ | .ldI _, _, _, _ | .jpV0 _, _, _, _
  | .rnd _ _, _, _, _ | .drw _ _ _, _, _, _ | .skp _, _, _, _ | .sknp _, _, _, _ | .ldVxDt _, _, _, _ | .ldVxK _, _, _, _
  | .ldDtVx _, _, _, _ | .ldStVx _, _, _, _ | .addI _, _, _, _ | .ldF _, _, _, _ | .loadRegs _, _, _, _ => False

/-- A sprite's 1 pixel falls on the screen cell (row, col) when DRW Vx, Vy, n executes: some row r < n and column c < 8 of the
n bytes at I has its bit 7 − c set and lands there, each coordinate wrapping by itself (R171, R172). -/
def spriteCovers (s : State) (x y : RegIndex) (n row col : Nat) : Prop :=
  ∃ r, r < n ∧ ∃ c, c < 8 ∧ (s.mem.read (s.i.toNat + r)).getLsbD (7 - c) = true ∧
    row = ((s.getV y).toNat % 32 + r) % 32 ∧ col = ((s.getV x).toNat % 64 + c) % 64

/-- The sprite DRW would draw has a 1 pixel on a cell that is set: the collision (R171, R9). -/
def spriteCollides (s : State) (x y : RegIndex) (n : Nat) : Prop :=
  ∃ row col, row < 32 ∧ col < 64 ∧ spriteCovers s x y n row col ∧ s.readCell row col = true

/-- Invariant: memory is in canonical form. -/
def MemoryCanonical (s : State) : Prop :=
  s.mem.wf

/-- Invariant: pc is at most 0x10FE and every stack slot at most 0x1000 (R24: "The largest value any rule can write is 0x10FE";
CALL pushes A + 2 with A ≤ 0xFFE, R102). -/
def PcAndStackBounded (s : State) : Prop :=
  s.pc.toNat ≤ 0x10FE ∧ ∀ k : Fin 16, s.stack[k.val].toNat ≤ 0x1000

/-- The two states differ at most in what a program cannot observe: ST (R28), REDRAW and the stack slots at index ≥ SP (R37). -/
structure SameToProgram (s t : State) : Prop where
  v : t.v = s.v
  i : t.i = s.i
  pc : t.pc = s.pc
  sp : t.sp = s.sp
  slot : ∀ k : Nat, k < s.sp.val → t.stack[k]? = s.stack[k]?
  dt : t.dt = s.dt
  mem : ∀ a, t.mem.read a = s.mem.read a
  fb : t.fb = s.fb
  keys : t.keys = s.keys
  run : t.run = s.run
  draws : t.draws = s.draws

end Sys2Proof.Machine
end

