-- ==== Sys2Proof/Certificates/Slice0/Obligations.lean ====
section
/-! DEFINITION. The statements for the provers. In each statement about an instruction `s` is the state its handler runs in, with pc
already advanced to A + 2 (R102), so the instruction's own address A is `s.pc - 2`. `ChangesOnly parts s t` is the frame: every
piece of state outside `parts` is as before. A docstring names the decision (D) of 92_eei_decisions.md or the log entry a clause
rests on: such a clause is the spec's or the model's choice, no rule of the source. The opcode values 0000, 00EE, 2nnn and 8xy4
stand in the source; every other opcode value is decision D2. -/

open Sys2Proof Sys2Proof.Machine

/-! ### Encoding -/

/-- Words written out from the encodings of 30_encoding.md R74 decode to their instructions, at least one of each family, that is of
each value of the high nibble (R9, R71; opcode values: D2, D5; the ignored y of SHR: D6). -/
def Obligations.SampleWordsDecodeAsTheTableSays : Prop :=
  decodeOpcode 0b0000000000000000 = .ok .halt ∧
  decodeOpcode 0b0000000011100000 = .ok .cls ∧
  decodeOpcode 0b0000000011101110 = .ok .ret ∧
  decodeOpcode 0b0001001000110100 = .ok (.jp 0x234) ∧
  decodeOpcode 0b0010001100000001 = .ok (.call 0x301) ∧
  decodeOpcode 0b0011001101000010 = .ok (.seImm 3 0x42) ∧
  decodeOpcode 0b0100111001000011 = .ok (.sneImm 14 0x43) ∧
  decodeOpcode 0b0101000100100000 = .ok (.seReg 1 2) ∧
  decodeOpcode 0b0110101000101011 = .ok (.ldImm 10 0x2B) ∧
  decodeOpcode 0b0111001000100000 = .ok (.addImm 2 0x20) ∧
  decodeOpcode 0b1000000000010100 = .ok (.addReg 0 1) ∧
  decodeOpcode 0b1000001110100110 = .ok (.shr 3) ∧
  decodeOpcode 0b1001000100100000 = .ok (.sneReg 1 2) ∧
  decodeOpcode 0b1010001011110000 = .ok (.ldI 0x2F0) ∧
  decodeOpcode 0b1011111111101101 = .ok (.jpV0 0xFED) ∧
  decodeOpcode 0b1100010100001111 = .ok (.rnd 5 0x0F) ∧
  decodeOpcode 0b1101000000100101 = .ok (.drw 0 2 5) ∧
  decodeOpcode 0b1110001010100001 = .ok (.sknp 2) ∧
  decodeOpcode 0b1111001001010101 = .ok (.storeRegs 2) ∧
  decodeOpcode 0b1111001001100101 = .ok (.loadRegs 2)

/-- Decode and encode agree: every well-formed instruction, at every value of its operands, is what the decoder reads from its two
bytes in memory, with the bytes after it left over (R53, R70, R74). -/
def Obligations.DecodeOfEncodeIsTheInstruction : Prop :=
  ∀ (i : Instr) (rest : List Byte), i.wellFormed = true → decode (encodeBytes i ++ rest) = .ok (i, rest)

/-- Each recognized opcode is the encoding of the instruction it decodes to, but for the y digit of SHR and SHL, which any value
may fill (R74, R77; decision D6). -/
def Obligations.RecognizedOpcodeIsItsInstructionsEncoding : Prop :=
  ∀ (w : Opcode) (i : Instr), decodeOpcode w = .ok i →
    i.wellFormed = true ∧
    (((∃ x, i = .shr x) ∨ ∃ x, i = .shl x) → (encode i).toNat = w.toNat / 0x100 * 0x100 + w.toNat % 0x10) ∧
    ((∀ x, i ≠ .shr x) → (∀ x, i ≠ .shl x) → encode i = w)

/-- The unrecognized opcodes are exactly the six sets of R75 (decision D4). -/
def Obligations.UnrecognizedOpcodesAreExactlyTheListed : Prop :=
  ∀ w : Opcode,
    decodeOpcode w = .error (.unrecognizedOpcode w) ↔
      (w.toNat / 0x1000 = 0x0 ∧ w ≠ 0x0000 ∧ w ≠ 0x00E0 ∧ w ≠ 0x00EE) ∨
      (w.toNat / 0x1000 = 0x5 ∧ w.toNat % 0x10 ≠ 0) ∨
      (w.toNat / 0x1000 = 0x8 ∧ w.toNat % 0x10 ∈ [0x8, 0x9, 0xA, 0xB, 0xC, 0xD, 0xF]) ∨
      (w.toNat / 0x1000 = 0x9 ∧ w.toNat % 0x10 ≠ 0) ∨
      (w.toNat / 0x1000 = 0xE ∧ w.toNat % 0x100 ∉ [0x9E, 0xA1]) ∨
      (w.toNat / 0x1000 = 0xF ∧ w.toNat % 0x100 ∉ [0x07, 0x0A, 0x15, 0x18, 0x1E, 0x29, 0x33, 0x55, 0x65])

/-! ### The step -/

/-- A step runs the decoded instruction: when the run goes on, pc + 1 ≤ 0xFFF and the opcode at pc decodes to i, the step is i's
execution with pc advanced by 2 (R100 to R104). -/
def Obligations.StepRunsTheDecodedInstruction : Prop :=
  ∀ (s : State) (i : Instr), s.run = .running → s.pc.toNat + 1 ≤ 0xFFF → decodeOpcode s.opcodeAtPc = .ok i →
    step s = exec i s.advance ∧ s.advance.pc.toNat = s.pc.toNat + 2 ∧ ChangesOnly [.pc] s s.advance

/-- A step of an ended run changes no state (R100; decision D22: the spec's choice). -/
def Obligations.StepOfEndedRunChangesNothing : Prop :=
  ∀ s : State, (s.successfulEnd ∨ s.failedEnd) → step s = .next s

/-- A fetch at pc ≥ 0xFFF raises OutOfBounds at pc, and pc stays (R101, R231; decisions D8 and D9). -/
def Obligations.FetchPastLastAddressRaisesOutOfBounds : Prop :=
  ∀ s : State, s.run = .running → 0xFFF ≤ s.pc.toNat →
    ∃ t, step s = .next t ∧ t.run = .faulted .outOfBounds s.pc ∧ ChangesOnly [.run] s t

/-- An unrecognized opcode raises UnimplementedInstruction at its address; pc keeps A + 2 and nothing else changes (R106; decision
D9). -/
def Obligations.UnrecognizedOpcodeRaisesUnimplemented : Prop :=
  ∀ (s : State) (w : Opcode), s.run = .running → s.pc.toNat + 1 ≤ 0xFFF →
    decodeOpcode s.opcodeAtPc = .error (.unrecognizedOpcode w) →
    ∃ t, step s = .next t ∧ t.run = .faulted .unimplementedInstruction s.pc ∧ t.pc.toNat = s.pc.toNat + 2 ∧
      ChangesOnly [.run, .pc] s t

/-- Every host operation answers a next state, in every state: no instruction is refused, and no step stops outside the run
state (R77, R104, R107). -/
def Obligations.EveryHostOperationAnswersNextState : Prop :=
  ∀ (o : HostOp) (s : State), ∃ t, hostOp o s = .next t

/-! ### Control flow -/

/-- HALT ends the run gracefully at its own address (R105; its opcode is decision D5). -/
def Obligations.HaltRecordsItsAddress : Prop :=
  decodeOpcode 0x0000 = .ok .halt ∧
  ∀ s : State, ∃ t, exec .halt s = .next t ∧ t.run = .halted (s.pc - 2) ∧ ChangesOnly [.run] s t

/-- JP nnn (R121; opcode value: D2). -/
def Obligations.JumpSetsPcToTheAddress : Prop :=
  ∀ (nnn : Addr12) (s : State),
    decodeOpcode (BitVec.ofNat 16 (0x1000 + nnn.toNat)) = .ok (.jp nnn) ∧
    ∃ t, exec (.jp nnn) s = .next t ∧ t.pc.toNat = nnn.toNat ∧ ChangesOnly [.pc] s t

/-- CALL nnn (R122): with room on the stack it pushes pc and jumps; with SP = 16 it raises StackOverflow. -/
def Obligations.CallPushesPcAndJumps : Prop :=
  ∀ (nnn : Addr12) (s : State),
    decodeOpcode (BitVec.ofNat 16 (0x2000 + nnn.toNat)) = .ok (.call nnn) ∧
    (s.sp.val < 16 → ∃ t, exec (.call nnn) s = .next t ∧ t.stack[s.sp.val]? = some s.pc ∧ t.sp.val = s.sp.val + 1 ∧
      t.pc.toNat = nnn.toNat ∧ ChangesOnly [.slot s.sp.val, .sp, .pc] s t) ∧
    (s.sp.val = 16 → ∃ t, exec (.call nnn) s = .next t ∧ t.run = .faulted .stackOverflow (s.pc - 2) ∧
      ChangesOnly [.run] s t)

/-- RET (R120): it pops the top slot into pc; with SP = 0 it raises StackUnderflow. -/
def Obligations.ReturnPopsIntoPc : Prop :=
  decodeOpcode 0x00EE = .ok .ret ∧
  ∀ s : State,
    (0 < s.sp.val → ∃ t, exec .ret s = .next t ∧ t.sp.val = s.sp.val - 1 ∧ s.stack[t.sp.val]? = some t.pc ∧
      ChangesOnly [.sp, .pc] s t) ∧
    (s.sp.val = 0 → ∃ t, exec .ret s = .next t ∧ t.run = .faulted .stackUnderflow (s.pc - 2) ∧ ChangesOnly [.run] s t)

/-- A call followed immediately by a return restores pc to the instruction after the call and the stack pointer (R122, R120); only
the slot the call wrote may differ, and it keeps its value. -/
def Obligations.CallThenReturnRestoresPcAndStackPointer : Prop :=
  ∀ (nnn : Addr12) (s : State), s.sp.val < 16 →
    ∃ t u, exec (.call nnn) s = .next t ∧ exec .ret t.advance = .next u ∧ u.pc = s.pc ∧ u.sp = s.sp ∧
      u.stack[s.sp.val]? = some s.pc ∧ ChangesOnly [.slot s.sp.val] s u

/-- SE Vx, kk and SNE Vx, kk (R123, R124; opcode values: D2). -/
def Obligations.SkipsOnComparisonWithImmediate : Prop :=
  ∀ (x : RegIndex) (kk : Byte) (s : State),
    decodeOpcode (BitVec.ofNat 16 (0x3000 + x.val * 0x100 + kk.toNat)) = .ok (.seImm x kk) ∧
    decodeOpcode (BitVec.ofNat 16 (0x4000 + x.val * 0x100 + kk.toNat)) = .ok (.sneImm x kk) ∧
    (∃ t, exec (.seImm x kk) s = .next t ∧ t.pc = (if s.getV x = kk then s.pc + 2 else s.pc) ∧ ChangesOnly [.pc] s t) ∧
    (∃ t, exec (.sneImm x kk) s = .next t ∧ t.pc = (if s.getV x = kk then s.pc else s.pc + 2) ∧ ChangesOnly [.pc] s t)

/-- SE Vx, Vy (R125; opcode value: D2). -/
def Obligations.SkipsIfRegistersAreEqual : Prop :=
  ∀ (x y : RegIndex) (s : State),
    decodeOpcode (BitVec.ofNat 16 (0x5000 + x.val * 0x100 + y.val * 0x10)) = .ok (.seReg x y) ∧
    ∃ t, exec (.seReg x y) s = .next t ∧ t.pc = (if s.getV x = s.getV y then s.pc + 2 else s.pc) ∧ ChangesOnly [.pc] s t

/-- SNE Vx, Vy (R126; included by decision D3; opcode value: D2). -/
def Obligations.SkipsIfRegistersDiffer : Prop :=
  ∀ (x y : RegIndex) (s : State),
    decodeOpcode (BitVec.ofNat 16 (0x9000 + x.val * 0x100 + y.val * 0x10)) = .ok (.sneReg x y) ∧
    ∃ t, exec (.sneReg x y) s = .next t ∧ t.pc = (if s.getV x = s.getV y then s.pc else s.pc + 2) ∧ ChangesOnly [.pc] s t

/-- JP V0, nnn (R127): a 16-bit sum, not masked (decision D31; opcode value: D2). -/
def Obligations.JumpWithOffsetAddsV0Unmasked : Prop :=
  ∀ (nnn : Addr12) (s : State),
    decodeOpcode (BitVec.ofNat 16 (0xB000 + nnn.toNat)) = .ok (.jpV0 nnn) ∧
    ∃ t, exec (.jpV0 nnn) s = .next t ∧ t.pc.toNat = (s.getV 0).toNat + nnn.toNat ∧ ChangesOnly [.pc] s t

/-! ### Arithmetic and logic -/

/-- LD Vx, kk and ADD Vx, kk (R140, R141; opcode values: D2): VF is written only as the destination. -/
def Obligations.LoadAndAddImmediateWriteOnlyVx : Prop :=
  ∀ (x : RegIndex) (kk : Byte) (s : State),
    decodeOpcode (BitVec.ofNat 16 (0x6000 + x.val * 0x100 + kk.toNat)) = .ok (.ldImm x kk) ∧
    decodeOpcode (BitVec.ofNat 16 (0x7000 + x.val * 0x100 + kk.toNat)) = .ok (.addImm x kk) ∧
    (∃ t, exec (.ldImm x kk) s = .next t ∧ t.getV x = kk ∧ ChangesOnly [.v x] s t) ∧
    (∃ t, exec (.addImm x kk) s = .next t ∧ (t.getV x).toNat = ((s.getV x).toNat + kk.toNat) % 256 ∧ ChangesOnly [.v x] s t)

/-- Adding kk and then (256 − kk) mod 256 restores Vx: "wraparound idempotence" (R141). -/
def Obligations.AddImmediateThenItsComplementRestoresState : Prop :=
  ∀ (x : RegIndex) (kk : Byte) (s : State),
    ∃ t u, exec (.addImm x kk) s = .next t ∧ exec (.addImm x (BitVec.ofNat 8 (256 - kk.toNat))) t = .next u ∧
      ChangesOnly [] s u

/-- LD Vx, Vy (R142; included by decision D3; opcode value: D2). -/
def Obligations.RegisterCopyWritesVx : Prop :=
  ∀ (x y : RegIndex) (s : State),
    decodeOpcode (BitVec.ofNat 16 (0x8000 + x.val * 0x100 + y.val * 0x10)) = .ok (.ldReg x y) ∧
    ∃ t, exec (.ldReg x y) s = .next t ∧ t.getV x = s.getV y ∧ ChangesOnly [.v x] s t

/-- OR, AND and XOR Vx, Vy (R143, R144, R145; opcode values: D2), bit by bit; VF is not reset. -/
def Obligations.BitwiseLogicWritesOnlyVx : Prop :=
  ∀ (x y : RegIndex) (s : State),
    decodeOpcode (BitVec.ofNat 16 (0x8001 + x.val * 0x100 + y.val * 0x10)) = .ok (.orReg x y) ∧
    decodeOpcode (BitVec.ofNat 16 (0x8002 + x.val * 0x100 + y.val * 0x10)) = .ok (.andReg x y) ∧
    decodeOpcode (BitVec.ofNat 16 (0x8003 + x.val * 0x100 + y.val * 0x10)) = .ok (.xorReg x y) ∧
    (∃ t, exec (.orReg x y) s = .next t ∧ ChangesOnly [.v x] s t ∧
      ∀ b, b < 8 → (t.getV x).getLsbD b = ((s.getV x).getLsbD b || (s.getV y).getLsbD b)) ∧
    (∃ t, exec (.andReg x y) s = .next t ∧ ChangesOnly [.v x] s t ∧
      ∀ b, b < 8 → (t.getV x).getLsbD b = ((s.getV x).getLsbD b && (s.getV y).getLsbD b)) ∧
    (∃ t, exec (.xorReg x y) s = .next t ∧ ChangesOnly [.v x] s t ∧
      ∀ b, b < 8 → (t.getV x).getLsbD b = ((s.getV x).getLsbD b ^^ (s.getV y).getLsbD b))

/-- ADD Vx, Vy (R146): the sum mod 256 and the carry, which is written last. -/
def Obligations.AddRegistersWritesSumThenCarry : Prop :=
  ∀ (x y : RegIndex) (s : State),
    decodeOpcode (BitVec.ofNat 16 (0x8004 + x.val * 0x100 + y.val * 0x10)) = .ok (.addReg x y) ∧
    ∃ t, exec (.addReg x y) s = .next t ∧
      (x ≠ vf → (t.getV x).toNat = ((s.getV x).toNat + (s.getV y).toNat) % 256) ∧
      t.getV vf = (if 255 < (s.getV x).toNat + (s.getV y).toNat then 1 else 0) ∧
      ChangesOnly [.v x, .v vf] s t

/-- SUB Vx, Vy (R147; opcode value: D2): the difference mod 256 and not-borrow, which is written last. -/
def Obligations.SubtractWritesDifferenceThenNotBorrow : Prop :=
  ∀ (x y : RegIndex) (s : State),
    decodeOpcode (BitVec.ofNat 16 (0x8005 + x.val * 0x100 + y.val * 0x10)) = .ok (.subReg x y) ∧
    ∃ t, exec (.subReg x y) s = .next t ∧
      (x ≠ vf → (t.getV x).toNat =
        (if (s.getV x).toNat < (s.getV y).toNat then (s.getV x).toNat + 256 - (s.getV y).toNat
          else (s.getV x).toNat - (s.getV y).toNat)) ∧
      t.getV vf = (if (s.getV x).toNat < (s.getV y).toNat then 0 else 1) ∧
      ChangesOnly [.v x, .v vf] s t

/-- SUBN Vx, Vy (R149): Vy − Vx mod 256 and its not-borrow, written last (the flag line of R149 is the spec's derivation from
R147; opcode value: D2). -/
def Obligations.ReverseSubtractWritesDifferenceThenNotBorrow : Prop :=
  ∀ (x y : RegIndex) (s : State),
    decodeOpcode (BitVec.ofNat 16 (0x8007 + x.val * 0x100 + y.val * 0x10)) = .ok (.subnReg x y) ∧
    ∃ t, exec (.subnReg x y) s = .next t ∧
      (x ≠ vf → (t.getV x).toNat =
        (if (s.getV y).toNat < (s.getV x).toNat then (s.getV y).toNat + 256 - (s.getV x).toNat
          else (s.getV y).toNat - (s.getV x).toNat)) ∧
      t.getV vf = (if (s.getV y).toNat < (s.getV x).toNat then 0 else 1) ∧
      ChangesOnly [.v x, .v vf] s t

/-- SHR Vx and SHL Vx with x ≠ 15 (R148, R150): a zero is shifted in and VF holds the bit shifted out; any y digit encodes them
(decision D6; opcode values: D2). With x = 15 the next statement speaks. -/
def Obligations.ShiftsCaptureTheBitShiftedOut : Prop :=
  ∀ (x y : RegIndex) (s : State),
    decodeOpcode (BitVec.ofNat 16 (0x8006 + x.val * 0x100 + y.val * 0x10)) = .ok (.shr x) ∧
    decodeOpcode (BitVec.ofNat 16 (0x800E + x.val * 0x100 + y.val * 0x10)) = .ok (.shl x) ∧
    (x ≠ vf →
      (∃ t, exec (.shr x) s = .next t ∧ (t.getV x).toNat = (s.getV x).toNat / 2 ∧
        (t.getV vf).toNat = (s.getV x).toNat % 2 ∧ ChangesOnly [.v x, .v vf] s t) ∧
      (∃ t, exec (.shl x) s = .next t ∧ (t.getV x).toNat = (s.getV x).toNat * 2 % 256 ∧
        (t.getV vf).toNat = (s.getV x).toNat / 128 ∧ ChangesOnly [.v x, .v vf] s t))

/-- SHR VF and SHL VF: model's choice (decision D7, log 4), the reading `sequential` of `SHIFT_VF_DEST`: VF ends as 0 and as 2 ×
old bit 7. The shared shift gives the spec's values under the other two readings (93_implementation_defined.md U7). -/
def Obligations.ShiftsOfVfFollowTheParameterReading : Prop :=
  ∀ s : State,
    (∃ t, exec (.shr vf) s = .next t ∧ (t.getV vf).toNat = 0 ∧ ChangesOnly [.v vf] s t) ∧
    (∃ t, exec (.shl vf) s = .next t ∧ (t.getV vf).toNat = 2 * ((s.getV vf).toNat / 128) ∧ ChangesOnly [.v vf] s t) ∧
    ((s.shiftRegister .snapshotResult vf shiftedOutRight shiftRightByte).getV vf).toNat = (s.getV vf).toNat / 2 ∧
    ((s.shiftRegister .snapshotResult vf shiftedOutLeft shiftLeftByte).getV vf).toNat = (s.getV vf).toNat * 2 % 256 ∧
    ((s.shiftRegister .flagLast vf shiftedOutRight shiftRightByte).getV vf).toNat = (s.getV vf).toNat % 2 ∧
    ((s.shiftRegister .flagLast vf shiftedOutLeft shiftLeftByte).getV vf).toNat = (s.getV vf).toNat / 128

/-- RND Vx, kk (R151): one draw of the host's source, masked. The source is a free value (model's choice of form: log 3; opcode
value: D2). -/
def Obligations.RandomIsOneDrawMasked : Prop :=
  ∀ (x : RegIndex) (kk : Byte) (s : State),
    decodeOpcode (BitVec.ofNat 16 (0xC000 + x.val * 0x100 + kk.toNat)) = .ok (.rnd x kk) ∧
    ∃ t, exec (.rnd x kk) s = .next t ∧ t.getV x = Config.randomByte s.draws &&& kk ∧ t.draws = s.draws + 1 ∧
      (kk = 0 → t.getV x = 0) ∧ ChangesOnly [.v x, .draws] s t

/-! ### Graphics -/

/-- CLS (R170) clears every cell and sets REDRAW (the spec's choice: decision D20; opcode value: D2). -/
def Obligations.ClearScreenZeroesEveryCell : Prop :=
  decodeOpcode 0x00E0 = .ok .cls ∧
  ∀ s : State, ∃ t, exec .cls s = .next t ∧ (∀ row col, row < 32 → col < 64 → t.readCell row col = false) ∧
    t.redraw = true ∧ ChangesOnly [.fb, .redraw] s t

/-- DRW Vx, Vy, n (R171, R172; decisions D1, D2, D12, D20, D21): when the n bytes at I are in memory, each screen cell is toggled exactly
when a 1 pixel of the sprite covers it, VF becomes 1 exactly when such a cell was set, and REDRAW is set. n = 0 is included: no
cell changes and VF becomes 0. -/
def Obligations.DrawTogglesExactlyTheSpritesPixels : Prop :=
  ∀ (x y : RegIndex) (n : Fin 16) (s : State),
    decodeOpcode (BitVec.ofNat 16 (0xD000 + x.val * 0x100 + y.val * 0x10 + n.val)) = .ok (.drw x y n) ∧
    (n.val = 0 ∨ s.i.toNat + n.val - 1 ≤ 0xFFF →
      ∃ t, exec (.drw x y n) s = .next t ∧
        (∀ row col, row < 32 → col < 64 →
          (t.readCell row col ≠ s.readCell row col ↔ spriteCovers s x y n.val row col)) ∧
        (spriteCollides s x y n.val → t.getV vf = 1) ∧ (¬ spriteCollides s x y n.val → t.getV vf = 0) ∧
        t.redraw = true ∧ ChangesOnly [.fb, .v vf, .redraw] s t)

/-- DRW with a byte of its sprite past 0xFFF raises OutOfBounds and draws nothing (R171; decisions D8, D9, D21). -/
def Obligations.DrawPastMemoryRaisesOutOfBounds : Prop :=
  ∀ (x y : RegIndex) (n : Fin 16) (s : State), 0 < n.val → 0xFFF < s.i.toNat + n.val - 1 →
    ∃ t, exec (.drw x y n) s = .next t ∧ t.run = .faulted .outOfBounds (s.pc - 2) ∧ ChangesOnly [.run] s t

/-- Drawing the same sprite twice at the same coordinates, with the same sprite bytes and no framebuffer change between, restores
every cell; on cells that were all zero the first draw reports no collision and the second reports one exactly when the sprite
has a 1 pixel (R173 b, c, the spec's derivations; conflict C2). -/
def Obligations.DrawingTwiceRestoresTheScreen : Prop :=
  ∀ (x y : RegIndex) (n : Fin 16) (s : State), (n.val = 0 ∨ s.i.toNat + n.val - 1 ≤ 0xFFF) →
    ∃ t, exec (.drw x y n) s = .next t ∧
      ∀ u : State, u.fb = t.fb → u.i = s.i → (∀ a, u.mem.read a = s.mem.read a) →
        u.getV x = s.getV x → u.getV y = s.getV y →
        ∃ w, exec (.drw x y n) u = .next w ∧ w.fb = s.fb ∧
          ((∀ row col, row < 32 → col < 64 → spriteCovers s x y n.val row col → s.readCell row col = false) →
            t.getV vf = 0 ∧
            (w.getV vf = 1 ↔ ∃ r c, r < n.val ∧ c < 8 ∧ (s.mem.read (s.i.toNat + r)).getLsbD c = true))

/-! ### Keys and timers -/

/-- SKP Vx and SKNP Vx (R190, R191): a skip on the key V[x] selects; OutOfBounds when V[x] > 15 (decision D18; opcode values: D2). -/
def Obligations.SkipsOnKeyState : Prop :=
  ∀ (x : RegIndex) (s : State),
    decodeOpcode (BitVec.ofNat 16 (0xE09E + x.val * 0x100)) = .ok (.skp x) ∧
    decodeOpcode (BitVec.ofNat 16 (0xE0A1 + x.val * 0x100)) = .ok (.sknp x) ∧
    (∀ k : Fin 16, (s.getV x).toNat = k.val →
      (∃ t, exec (.skp x) s = .next t ∧ ChangesOnly [.pc] s t ∧
        (s.keys[k.val] = true → t.pc = s.pc + 2) ∧ (s.keys[k.val] = false → t.pc = s.pc)) ∧
      (∃ t, exec (.sknp x) s = .next t ∧ ChangesOnly [.pc] s t ∧
        (s.keys[k.val] = true → t.pc = s.pc) ∧ (s.keys[k.val] = false → t.pc = s.pc + 2))) ∧
    (15 < (s.getV x).toNat →
      (∃ t, exec (.skp x) s = .next t ∧ t.run = .faulted .outOfBounds (s.pc - 2) ∧ ChangesOnly [.run] s t) ∧
      (∃ t, exec (.sknp x) s = .next t ∧ t.run = .faulted .outOfBounds (s.pc - 2) ∧ ChangesOnly [.run] s t))

/-- LD Vx, K (R193): the pressed key's index, the lowest one if several are pressed (the spec's choice: decision D19); with none
pressed pc goes back by 2 (opcode value: D2). -/
def Obligations.AwaitKeyTakesTheLowestPressedKey : Prop :=
  ∀ (x : RegIndex) (s : State),
    decodeOpcode (BitVec.ofNat 16 (0xF00A + x.val * 0x100)) = .ok (.ldVxK x) ∧
    (∀ k : Fin 16, s.keys[k.val] = true → (∀ j : Fin 16, j < k → s.keys[j.val] = false) →
      ∃ t, exec (.ldVxK x) s = .next t ∧ (t.getV x).toNat = k.val ∧ ChangesOnly [.v x] s t) ∧
    ((∀ k : Fin 16, s.keys[k.val] = false) →
      ∃ t, exec (.ldVxK x) s = .next t ∧ t.pc = s.pc - 2 ∧ ChangesOnly [.pc] s t)

/-- While no key is pressed, any number of steps at an LD Vx, K leaves the whole state unchanged; once a key is pressed the next
step moves pc on by 2 and the register holds that key's index (R193, R37, R268; with several keys decision D19 applies). -/
def Obligations.AwaitKeyRepeatsUntilAKeyIsPressed : Prop :=
  ∀ (x : RegIndex) (s : State), s.run = .running → s.pc.toNat + 1 ≤ 0xFFF → decodeOpcode s.opcodeAtPc = .ok (.ldVxK x) →
    ((∀ k : Fin 16, s.keys[k.val] = false) → ∀ n : Nat, runSchedule (List.replicate n .step) s = .next s) ∧
    (∀ k : Fin 16, s.keys[k.val] = true → (∀ j : Fin 16, j ≠ k → s.keys[j.val] = false) →
      ∃ t, step s = .next t ∧ t.pc.toNat = s.pc.toNat + 2 ∧ (t.getV x).toNat = k.val ∧ ChangesOnly [.pc, .v x] s t)

/-- LD Vx, DT; LD DT, Vx and LD ST, Vx (R192, R194, R195; opcode values: D2). -/
def Obligations.TimerTransfersCopyOneByte : Prop :=
  ∀ (x : RegIndex) (s : State),
    decodeOpcode (BitVec.ofNat 16 (0xF007 + x.val * 0x100)) = .ok (.ldVxDt x) ∧
    decodeOpcode (BitVec.ofNat 16 (0xF015 + x.val * 0x100)) = .ok (.ldDtVx x) ∧
    decodeOpcode (BitVec.ofNat 16 (0xF018 + x.val * 0x100)) = .ok (.ldStVx x) ∧
    (∃ t, exec (.ldVxDt x) s = .next t ∧ t.getV x = s.dt ∧ ChangesOnly [.v x] s t) ∧
    (∃ t, exec (.ldDtVx x) s = .next t ∧ t.dt = s.getV x ∧ ChangesOnly [.dt] s t) ∧
    (∃ t, exec (.ldStVx x) s = .next t ∧ t.st = s.getV x ∧ ChangesOnly [.st] s t)

/-- `tick_timers()` (R239): while the run goes on each timer falls by 1 and stops at 0, and nothing else changes; after its end
nothing changes (decision D22). -/
def Obligations.TickLowersEachTimerToZero : Prop :=
  ∀ s : State,
    (s.run = .running → ∃ t, hostOp .tickTimers s = .next t ∧ t.dt.toNat = s.dt.toNat - 1 ∧ t.st.toNat = s.st.toNat - 1 ∧
      ChangesOnly [.dt, .st] s t) ∧
    (s.successfulEnd ∨ s.failedEnd → hostOp .tickTimers s = .next s)

/-- `set_keys(k)` replaces all 16 flags and nothing else, in any run state (R244; decision D34). -/
def Obligations.SetKeysReplacesAllFlags : Prop :=
  ∀ (k : Vector Bool 16) (s : State), ∃ t, hostOp (.setKeys k) s = .next t ∧ t.keys = k ∧ ChangesOnly [.keys] s t

/-- `clear_redraw()` clears REDRAW and changes nothing else, and nothing but it ever clears REDRAW: no step, no tick, no key push
(R245). -/
def Obligations.OnlyClearRedrawClearsTheRedrawFlag : Prop :=
  ∀ s : State,
    (∃ t, hostOp .clearRedraw s = .next t ∧ t.redraw = false ∧ ChangesOnly [.redraw] s t) ∧
    ∀ (o : HostOp) (t : State), o ≠ .clearRedraw → hostOp o s = .next t → s.redraw = true → t.redraw = true

/-! ### Index register and memory -/

/-- LD I, nnn (R196; opcode value: D2). -/
def Obligations.LoadIndexWritesTheAddress : Prop :=
  ∀ (nnn : Addr12) (s : State),
    decodeOpcode (BitVec.ofNat 16 (0xA000 + nnn.toNat)) = .ok (.ldI nnn) ∧
    ∃ t, exec (.ldI nnn) s = .next t ∧ t.i.toNat = nnn.toNat ∧ ChangesOnly [.i] s t

/-- ADD I, Vx and LD F, Vx (R197, R198): mod 65536 with VF unchanged (decision D16), and unmasked for every V[x] (decision D17; opcode
values: D2). -/
def Obligations.AddToIndexAndGlyphAddress : Prop :=
  ∀ (x : RegIndex) (s : State),
    decodeOpcode (BitVec.ofNat 16 (0xF01E + x.val * 0x100)) = .ok (.addI x) ∧
    decodeOpcode (BitVec.ofNat 16 (0xF029 + x.val * 0x100)) = .ok (.ldF x) ∧
    (∃ t, exec (.addI x) s = .next t ∧ t.i.toNat = (s.i.toNat + (s.getV x).toNat) % 65536 ∧ ChangesOnly [.i] s t) ∧
    (∃ t, exec (.ldF x) s = .next t ∧ t.i.toNat = 0x50 + 5 * (s.getV x).toNat ∧ ChangesOnly [.i] s t)

/-- LD B, Vx (R199): the three decimal digits at I, I + 1, I + 2; OutOfBounds with nothing written when I + 2 > 0xFFF (decision
D8; opcode value: D2). -/
def Obligations.StoreDecimalWritesThreeDigits : Prop :=
  ∀ (x : RegIndex) (s : State),
    decodeOpcode (BitVec.ofNat 16 (0xF033 + x.val * 0x100)) = .ok (.ldB x) ∧
    (s.i.toNat + 2 ≤ 0xFFF → ∃ t, exec (.ldB x) s = .next t ∧
      (t.mem.read s.i.toNat).toNat = (s.getV x).toNat / 100 ∧
      (t.mem.read (s.i.toNat + 1)).toNat = (s.getV x).toNat / 10 % 10 ∧
      (t.mem.read (s.i.toNat + 2)).toNat = (s.getV x).toNat % 10 ∧
      ChangesOnly [.byte s.i.toNat, .byte (s.i.toNat + 1), .byte (s.i.toNat + 2)] s t) ∧
    (0xFFF < s.i.toNat + 2 → ∃ t, exec (.ldB x) s = .next t ∧ t.run = .faulted .outOfBounds (s.pc - 2) ∧
      ChangesOnly [.run] s t)

/-- LD [I], Vx (R200): V0 to Vx at I to I + x, I unchanged (decision D15); OutOfBounds with nothing written when I + x > 0xFFF
(D8; opcode value: D2). -/
def Obligations.StoreRegistersWritesV0ToVx : Prop :=
  ∀ (x : RegIndex) (s : State),
    decodeOpcode (BitVec.ofNat 16 (0xF055 + x.val * 0x100)) = .ok (.storeRegs x) ∧
    (s.i.toNat + x.val ≤ 0xFFF → ∃ t, exec (.storeRegs x) s = .next t ∧
      (∀ k : RegIndex, k ≤ x → t.mem.read (s.i.toNat + k.val) = s.getV k) ∧
      ChangesOnly ((List.range (x.val + 1)).map (fun k => .byte (s.i.toNat + k))) s t) ∧
    (0xFFF < s.i.toNat + x.val → ∃ t, exec (.storeRegs x) s = .next t ∧ t.run = .faulted .outOfBounds (s.pc - 2) ∧
      ChangesOnly [.run] s t)

/-- LD Vx, [I] (R201): V0 to Vx from I to I + x, I unchanged (decision D15); OutOfBounds when I + x > 0xFFF (conflict C6, D8;
opcode value: D2). -/
def Obligations.LoadRegistersReadsV0ToVx : Prop :=
  ∀ (x : RegIndex) (s : State),
    decodeOpcode (BitVec.ofNat 16 (0xF065 + x.val * 0x100)) = .ok (.loadRegs x) ∧
    (s.i.toNat + x.val ≤ 0xFFF → ∃ t, exec (.loadRegs x) s = .next t ∧
      (∀ k : RegIndex, k ≤ x → t.getV k = s.mem.read (s.i.toNat + k.val)) ∧
      (∀ k : RegIndex, x < k → t.getV k = s.getV k) ∧
      ChangesOnly ((List.finRange 16).map .v) s t) ∧
    (0xFFF < s.i.toNat + x.val → ∃ t, exec (.loadRegs x) s = .next t ∧ t.run = .faulted .outOfBounds (s.pc - 2) ∧
      ChangesOnly [.run] s t)

/-- A stored byte is what the next fetch of its address reads, without any wait (R62, R267): after LD B, Vx or LD [I], Vx, a fetch
in any state with the memory it left, wherever pc stands and whether the block holds both bytes of the word, one or none, reads the
stored byte where one was stored and the old byte elsewhere; the next step is such a fetch, at the same pc. -/
def Obligations.FetchSeesTheBytesJustStored : Prop :=
  ∀ (i : Instr) (s : State), ((∃ x, i = .ldB x) ∨ ∃ x, i = .storeRegs x) → faultCondition i s = none →
    ∃ t, exec i s = .next t ∧ t.pc = s.pc ∧
      ∀ u : State, (∀ a, u.mem.read a = t.mem.read a) → u.pc.toNat + 1 ≤ 0xFFF →
        ∃ hi lo, u.fetch = some [hi, lo] ∧ u.opcodeAtPc.toNat = hi.toNat * 256 + lo.toNat ∧
          (∀ b, storesByte i s u.pc.toNat b → hi = b) ∧
          ((∀ b, ¬ storesByte i s u.pc.toNat b) → hi = s.mem.read u.pc.toNat) ∧
          (∀ b, storesByte i s (u.pc.toNat + 1) b → lo = b) ∧
          ((∀ b, ¬ storesByte i s (u.pc.toNat + 1) b) → lo = s.mem.read (u.pc.toNat + 1))

/-! ### Rules over the whole instruction set -/

/-- The frame rule, component by component, over every instruction (R108): which instructions may change V0 to VF (R22), I (R23),
pc, the stack (R25), SP (R26), DT (R27), ST (R28), memory (R55), the framebuffer (R29), REDRAW (R30; decision D20), KEYS (R31), RUN
and the count of draws (log 3). -/
def Obligations.EachPieceOfStateIsWrittenOnlyByItsInstructions : Prop :=
  ∀ (i : Instr) (s t : State), exec i s = .next t →
    (∀ k : RegIndex, t.getV k ≠ s.getV k → mayWriteRegister k i) ∧
    (t.i ≠ s.i → (∃ nnn, i = .ldI nnn) ∨ (∃ x, i = .addI x) ∨ ∃ x, i = .ldF x) ∧
    (t.pc ≠ s.pc → i = .ret ∨ (∃ nnn, i = .jp nnn) ∨ (∃ nnn, i = .call nnn) ∨ (∃ nnn, i = .jpV0 nnn) ∨
      (∃ x kk, i = .seImm x kk) ∨ (∃ x kk, i = .sneImm x kk) ∨ (∃ x y, i = .seReg x y) ∨ (∃ x y, i = .sneReg x y) ∨
      (∃ x, i = .skp x) ∨ (∃ x, i = .sknp x) ∨ ∃ x, i = .ldVxK x) ∧
    (t.stack ≠ s.stack → ∃ nnn, i = .call nnn) ∧
    (t.sp ≠ s.sp → i = .ret ∨ ∃ nnn, i = .call nnn) ∧
    (t.dt ≠ s.dt → ∃ x, i = .ldDtVx x) ∧
    (t.st ≠ s.st → ∃ x, i = .ldStVx x) ∧
    ((∃ a, t.mem.read a ≠ s.mem.read a) → (∃ x, i = .ldB x) ∨ ∃ x, i = .storeRegs x) ∧
    (t.fb ≠ s.fb → i = .cls ∨ ∃ x y n, i = .drw x y n) ∧
    (t.redraw ≠ s.redraw → t.redraw = true ∧ (i = .cls ∨ ∃ x y n, i = .drw x y n)) ∧
    t.keys = s.keys ∧
    (t.run ≠ s.run → t.run = .halted (s.pc - 2) ∧ i = .halt ∨ ∃ k, t.run = .faulted k (s.pc - 2)) ∧
    (t.draws ≠ s.draws → ∃ x kk, i = .rnd x kk)

/-- A register changes only where an instruction names it as destination, loads it in its block, or writes VF as its flag (R22,
R108): OR, AND, XOR, ADD Vx, kk and ADD I, Vx leave VF alone. -/
def Obligations.RegistersChangeOnlyAsDestinationsOrFlag : Prop :=
  ∀ (i : Instr) (s t : State) (k : RegIndex), exec i s = .next t → t.getV k ≠ s.getV k → mayWriteRegister k i

/-- An instruction raises a fault exactly when its rule's condition holds; it then changes RUN alone, and otherwise the run goes on
unless the instruction is HALT (R107, R230, R234; decisions D8, D9, D18). -/
def Obligations.InstructionsFaultExactlyOnTheirCondition : Prop :=
  ∀ (i : Instr) (s : State), ∃ t, exec i s = .next t ∧
    (∀ k, faultCondition i s = some k → t.run = .faulted k (s.pc - 2) ∧ ChangesOnly [.run] s t) ∧
    (faultCondition i s = none → i ≠ .halt → t.run = s.run)

/-- Faults are precise and final (R231, R232, R233; decision D9): a step that raises one records its fetch address, changes nothing
but RUN and pc, leaves the opcode where it was fetched, and every later step changes nothing. -/
def Obligations.StepFaultsArePreciseAndFinal : Prop :=
  ∀ (s t : State) (k : FaultKind) (a : Word), s.run = .running → step s = .next t → t.run = .faulted k a →
    a = s.pc ∧ ChangesOnly [.run, .pc] s t ∧ (t.pc = s.pc ∨ t.pc = s.pc + 2) ∧ (t.pc = s.pc → k = .outOfBounds) ∧
    ∀ n : Nat, runSchedule (List.replicate n .step) t = .next t

/-- Halted and Faulted are final under every schedule of host operations: afterwards only KEYS and REDRAW change, as the host
writes them (R32, R232, R249; decision D22). -/
def Obligations.EndedRunIsFinalUnderEverySchedule : Prop :=
  ∀ (os : List HostOp) (s : State), s.successfulEnd ∨ s.failedEnd →
    ∃ t, runSchedule os s = .next t ∧ t.run = s.run ∧ t.pc = s.pc ∧ t.dt = s.dt ∧ t.st = s.st ∧
      ChangesOnly [.keys, .redraw] s t

/-! ### Reset and load -/

/-- The state after construction (R35, R260): memory zero but for the font at 0x050 to 0x09F, pc at 0x200, and every other piece at
the value of R35's table (model's choice where the spec decides it, D11 and D13: log 5 and log 6). -/
def Obligations.ResetHoldsTheConstructionValues : Prop :=
  (∀ a, a < 0x50 → State.reset.mem.read a = 0) ∧
  (∀ d k, d < 16 → k < 5 → State.reset.mem.read (0x50 + 5 * d + k) = Config.font.getD (5 * d + k) 0) ∧
  (∀ a, 0xA0 ≤ a → a ≤ 0xFFF → State.reset.mem.read a = 0) ∧
  State.reset.pc = 0x200 ∧ State.reset.run = .running ∧
  (∀ k : RegIndex, State.reset.getV k = 0) ∧ State.reset.i = 0 ∧ State.reset.sp = 0 ∧
  (∀ k : Fin 16, State.reset.stack[k.val] = 0) ∧ State.reset.dt = 0 ∧ State.reset.st = 0 ∧
  (∀ row col, row < 32 → col < 64 → State.reset.readCell row col = false) ∧
  State.reset.redraw = false ∧ (∀ k : Fin 16, State.reset.keys[k.val] = false)

/-- `load(p)` (R261): the bytes from 0x200 on and nothing else, or a refusal when they do not fit (decision D24). -/
def Obligations.LoadWritesTheProgramOrRefuses : Prop :=
  ∀ (p : List Byte) (s : State),
    (p.length ≤ 3584 → ∃ t, s.load p = .next t ∧ (∀ k (h : k < p.length), t.mem.read (0x200 + k) = p[k]) ∧
      ChangesOnly ((List.range p.length).map (fun k => .byte (0x200 + k))) s t) ∧
    (3584 < p.length → s.load p = .refused (.programTooLarge p.length))

/-- The first step after construction and load runs the program's first word, from 0x200 (R53, R261, R262, R263). -/
def Obligations.BootedProgramRunsItsFirstWord : Prop :=
  ∀ (hi lo : Byte) (rest : List Byte) (i : Instr), rest.length + 2 ≤ 3584 →
    decodeOpcode (BitVec.ofNat 16 (hi.toNat * 256 + lo.toNat)) = .ok i →
    ∃ s, boot (hi :: lo :: rest) = .next s ∧ s.pc = 0x200 ∧ step s = exec i s.advance

/-! ### Invariants -/

/-- Memory is canonical after construction (log 12). -/
def Obligations.MemoryIsCanonicalAtReset : Prop :=
  MemoryCanonical State.reset

/-- Every step keeps memory canonical: addresses strictly rising, no listed cell outside 0x000 to 0xFFF, none equal to what its
address reads as unlisted (the form is the model's: log 12). That no access goes outside is
`BytesOutsideMemoryAreNeitherReadNorWritten`. -/
def Obligations.StepKeepsMemoryCanonical : Prop :=
  ∀ s t : State, MemoryCanonical s → step s = .next t → MemoryCanonical t

/-- The bound on pc and the return addresses holds after construction (R24). -/
def Obligations.PcAndStackAreBoundedAtReset : Prop :=
  PcAndStackBounded State.reset

/-- Every step keeps pc at most 0x10FE and every return address at most 0x1000, so no pc arithmetic wraps (R24, the spec's
derivation). -/
def Obligations.StepKeepsPcAndStackBounded : Prop :=
  ∀ s t : State, PcAndStackBounded s → step s = .next t → PcAndStackBounded t

/-- From the state a boot leaves, every schedule of host operations keeps memory canonical and pc and the return addresses bounded
(R24, R243, R261). -/
def Obligations.EveryScheduleFromBootKeepsTheInvariants : Prop :=
  ∀ (p : List Byte) (os : List HostOp) (s t : State), boot p = .next s → runSchedule os s = .next t →
    MemoryCanonical t ∧ PcAndStackBounded t

/-! ### What a program cannot observe -/

/-- ST, REDRAW and the stack slots at index ≥ SP influence nothing a program can observe, over any schedule of host operations:
two states that differ at most there run, under the same random bytes (log 3), to states that differ at most there (R28, R37, the
spec's derivation; decision D33). -/
def Obligations.HiddenStateNeverReachesTheProgram : Prop :=
  ∀ (os : List HostOp) (s s' : State), SameToProgram s s' →
    ∃ t t', runSchedule os s = .next t ∧ runSchedule os s' = .next t' ∧ SameToProgram t t'

/-- No step reads or writes outside 0x000 to 0xFFF (R56, R57): two states that are equal but for what memory holds above 0xFFF step to
states that are equal but for that, and the step leaves what memory holds there. The model's memory could hold such bytes
(log 12); the hardware has none (R50). -/
def Obligations.BytesOutsideMemoryAreNeitherReadNorWritten : Prop :=
  ∀ (s : State) (m : Memory), (∀ a, a ≤ 0xFFF → m.read a = s.mem.read a) →
    ∃ t u, step s = .next t ∧ step { s with mem := m } = .next u ∧ u = { t with mem := u.mem } ∧
      (∀ a, a ≤ 0xFFF → u.mem.read a = t.mem.read a) ∧
      ∀ a, 0xFFF < a → t.mem.read a = s.mem.read a ∧ u.mem.read a = m.read a
end

