-- ==== Sys2Proof/Laws/Config.lean ====
section
/-! SUPPORT. The parameters' values (00_scope.md R4) as numerals, for simp. -/

namespace Sys2Proof.Config

@[simp] theorem memSize_eq : memSize = 4096 := rfl
@[simp] theorem addrMax_eq : addrMax = 4095 := rfl
@[simp] theorem stackDepth_eq : stackDepth = 16 := rfl
@[simp] theorem fontBase_eq : fontBase = 80 := rfl
@[simp] theorem fontGlyphBytes_eq : fontGlyphBytes = 5 := rfl
@[simp] theorem fontBytes_eq : fontBytes = 80 := rfl
@[simp] theorem programOrigin_eq : programOrigin = 512 := rfl
@[simp] theorem fbWidth_eq : fbWidth = 64 := rfl
@[simp] theorem fbHeight_eq : fbHeight = 32 := rfl

/-- The font table has its 80 bytes (R36). -/
theorem length_font : font.length = fontBytes := by decide

end Sys2Proof.Config
end

