-- ==== Sys2Proof/Laws/Decode.lean ====
section
/-! SUPPORT. The encoding's formats: the fields of a packed opcode, its bytes, and that no two rows of the opcode map overlap. -/

namespace Sys2Proof

/-- Two rows both fix some digit and differ there. -/
def OpcodeRow.differ (r r' : OpcodeRow) : Bool :=
  [(r.d3, r'.d3), (r.d2, r'.d2), (r.d1, r'.d1), (r.d0, r'.d0)].any
    (fun p => p.1.isSome && p.2.isSome && decide (p.1 ≠ p.2))

/-- "The patterns of rule R74 are pairwise disjoint, so at most one matches any w" (R104). -/
theorem opcodeTable_disjoint (has : Bool) : (opcodeTable has).Pairwise (fun r r' => r.differ r' = true) := by
  cases has <;> decide

/-- The map has 35 rows, 33 without 8xy0 and 9xy0 (R74, decision D3). -/
theorem opcodeTable_length (has : Bool) : (opcodeTable has).length = if has then 35 else 33 := by
  cases has <;> decide

theorem fieldsOf_packDigits (op x y n : Fin 16) :
    (fieldsOf (packDigits op x y n)).op = op ∧ (fieldsOf (packDigits op x y n)).x = x ∧
      (fieldsOf (packDigits op x y n)).y = y ∧ (fieldsOf (packDigits op x y n)).n = n := by
  refine ⟨?_, ?_, ?_, ?_⟩ <;>
    (apply Fin.ext; simp only [fieldsOf, digit, packDigits, BitVec.toNat_ofNat]; omega)

theorem fieldsOf_packKk (op x : Fin 16) (kk : Byte) :
    (fieldsOf (packKk op x kk)).op = op ∧ (fieldsOf (packKk op x kk)).x = x ∧ (fieldsOf (packKk op x kk)).kk = kk := by
  refine ⟨Fin.ext ?_, Fin.ext ?_, BitVec.eq_of_toNat_eq ?_⟩ <;>
    (simp only [fieldsOf, digit, packKk, BitVec.toNat_ofNat]; omega)

theorem fieldsOf_packNnn (op : Fin 16) (nnn : Addr12) :
    (fieldsOf (packNnn op nnn)).op = op ∧ (fieldsOf (packNnn op nnn)).nnn = nnn := by
  refine ⟨Fin.ext ?_, BitVec.eq_of_toNat_eq ?_⟩ <;>
    (simp only [fieldsOf, digit, packNnn, BitVec.toNat_ofNat]; omega)

/-- An opcode's bytes in memory form it again (R53). -/
theorem bigEndian_opcodeBytes (w : Opcode) :
    bigEndian (BitVec.ofNat 8 (w.toNat / 256)) (BitVec.ofNat 8 w.toNat) = w := by
  apply BitVec.eq_of_toNat_eq
  simp only [bigEndian, BitVec.toNat_ofNat]
  omega

theorem decode_opcodeBytes (w : Opcode) (rest : List Byte) :
    decode (opcodeBytes w ++ rest) = (decodeOpcode w).map (fun i => (i, rest)) := by
  simp only [opcodeBytes, List.cons_append, List.nil_append, decode, bigEndian_opcodeBytes]
  cases decodeOpcode w <;> rfl

end Sys2Proof
end

