-- ==== Sys2Proof/Laws/Graphics.lean ====
section
/-! SUPPORT. The framebuffer: what toggling a cell does, and what drawing a whole sprite does to every cell and to the
collision. A sprite is drawn as the list of the cells of its 1 pixels, all different (43_graphics.md R173 a). -/

namespace Sys2Proof.Machine

/-- The number of cells (R29). -/
abbrev cellCount : Nat := Config.fbWidth * Config.fbHeight

@[simp] theorem cellCount_eq : cellCount = 2048 := rfl

theorem Framebuffer.cell_toggle (fb : Framebuffer) (k j : Nat) (hk : k < cellCount) :
    (fb.toggle k).cell j = (fb.cell j ^^ decide (j = k)) := by
  have hr : k / 64 < 32 := by rw [cellCount_eq] at hk; omega
  unfold Framebuffer.toggle Framebuffer.cell
  simp only [Vector.getElem?_setIfInBounds]
  by_cases hrow : k / 64 = j / 64
  · have hj : j / 64 < 32 := hrow ▸ hr
    simp only [hrow, if_true, hj, Option.getD_some, BitVec.getLsbD_xor, BitVec.getLsbD_twoPow]
    have h64 : k % 64 < 64 := Nat.mod_lt _ (by decide)
    by_cases hcol : k % 64 = j % 64
    · have : j = k := by omega
      simp [this, h64]
    · have : j ≠ k := fun h => hcol (by rw [h])
      simp [hcol, this]
  · have : j ≠ k := fun h => hrow (by rw [h])
    simp [hrow, this]

theorem Framebuffer.cell_clear (k : Nat) : Framebuffer.clear.cell k = false := by
  unfold Framebuffer.cell Framebuffer.clear
  by_cases h : k / 64 < 32 <;> simp [h]

/-- Two framebuffers with the same cells are the same. -/
theorem Framebuffer.ext_cell {fb fb' : Framebuffer} (h : ∀ k, k < cellCount → fb.cell k = fb'.cell k) : fb = fb' := by
  apply Vector.ext
  intro r hr
  apply BitVec.eq_of_getLsbD_eq
  intro c hc
  have := h (r * 64 + c) (by rw [cellCount_eq]; omega)
  simpa [Framebuffer.cell, show (r * 64 + c) / 64 = r by omega, show (r * 64 + c) % 64 = c by omega, hr] using this

/-- The cells of a sprite row's 1 pixels. -/
def rowCells (row cx : Nat) (b : Byte) : List Nat :=
  ([0, 1, 2, 3, 4, 5, 6, 7].filter (spritePixel b)).map (fun c => cellIndex row ((cx + c) % Config.fbWidth))

/-- The cells of a sprite's 1 pixels, the top row first. -/
def spriteCells (cx : Nat) : Nat → List Byte → List Nat
  | _, [] => []
  | cy, b :: bs => rowCells (cy % Config.fbHeight) cx b ++ spriteCells cx (cy + 1) bs

theorem plotRow_eq_foldl (row cx : Nat) (b : Byte) (acc : Framebuffer × Bool) :
    plotRow row cx b acc = (rowCells row cx b).foldl plotPixel acc := by
  unfold plotRow rowCells
  rw [List.foldl_map, List.foldl_filter]

theorem plotRows_eq_foldl (cx cy : Nat) (bs : List Byte) (acc : Framebuffer × Bool) :
    plotRows cx cy bs acc = (spriteCells cx cy bs).foldl plotPixel acc := by
  induction bs generalizing cy acc with
  | nil => rfl
  | cons b bs ih => rw [plotRows, spriteCells, List.foldl_append, ih, plotRow_eq_foldl]

/-- Plotting different cells: each listed cell is toggled, and there is a collision when one of them was set. -/
theorem foldl_plotPixel (ks : List Nat) (hn : ks.Nodup) (hk : ∀ k ∈ ks, k < cellCount) (fb : Framebuffer) (hit : Bool) :
    (∀ j, (ks.foldl plotPixel (fb, hit)).1.cell j = (fb.cell j ^^ decide (j ∈ ks))) ∧
      (ks.foldl plotPixel (fb, hit)).2 = (hit || ks.any fb.cell) := by
  induction ks generalizing fb hit with
  | nil => simp
  | cons k ks ih =>
    obtain ⟨hnot, hn⟩ := List.nodup_cons.1 hn
    have hk0 : k < cellCount := hk k (by simp)
    have hrest := ih hn (fun j hj => hk j (by simp [hj])) (fb.toggle k) (hit || fb.cell k)
    rw [List.foldl_cons, plotPixel]
    refine ⟨fun j => ?_, ?_⟩
    · rw [hrest.1, Framebuffer.cell_toggle _ _ _ hk0]
      by_cases hj : j = k
      · subst hj; simp [hnot]
      · simp [hj]
    · have hany : ks.any (fb.toggle k).cell = ks.any fb.cell := by
        rw [Bool.eq_iff_iff, List.any_eq_true, List.any_eq_true]
        refine exists_congr fun j => and_congr_right fun hj => ?_
        rw [Framebuffer.cell_toggle _ _ _ hk0]
        simp [show j ≠ k from fun h => hnot (h ▸ hj)]
      rw [hrest.2, hany, List.any_cons, Bool.or_assoc]

theorem mem_rowCells (row cx j : Nat) (b : Byte) :
    j ∈ rowCells row cx b ↔ ∃ c, c < 8 ∧ spritePixel b c = true ∧ j = cellIndex row ((cx + c) % Config.fbWidth) := by
  unfold rowCells
  simp only [List.mem_map, List.mem_filter]
  constructor
  · rintro ⟨c, ⟨hc, hp⟩, rfl⟩
    refine ⟨c, ?_, hp, rfl⟩
    simp at hc
    omega
  · rintro ⟨c, hc, hp, rfl⟩
    refine ⟨c, ⟨?_, hp⟩, rfl⟩
    simp
    omega

theorem mem_spriteCells (cx cy j : Nat) (bs : List Byte) :
    j ∈ spriteCells cx cy bs ↔ ∃ r, ∃ h : r < bs.length, ∃ c, c < 8 ∧ spritePixel bs[r] c = true ∧
      j = cellIndex ((cy + r) % Config.fbHeight) ((cx + c) % Config.fbWidth) := by
  induction bs generalizing cy with
  | nil => simp [spriteCells]
  | cons b bs ih =>
    rw [spriteCells, List.mem_append, mem_rowCells, ih]
    constructor
    · rintro (⟨c, hc⟩ | ⟨r, hr, c, hc⟩)
      · exact ⟨0, by simp, c, by simpa using hc⟩
      · refine ⟨r + 1, by simpa using hr, c, ?_⟩
        simpa [Nat.add_assoc, Nat.add_comm 1 r] using hc
    · rintro ⟨r, hr, c, hc⟩
      cases r with
      | zero => exact .inl ⟨c, by simpa using hc⟩
      | succ r =>
        refine .inr ⟨r, by simpa using hr, c, ?_⟩
        simpa [Nat.add_assoc, Nat.add_comm 1 r] using hc

/-- A cell index gives back its row and column. -/
theorem cellIndex_inj {r c r' c' : Nat} (hc : c < Config.fbWidth) (hc' : c' < Config.fbWidth)
    (h : cellIndex r c = cellIndex r' c') : r = r' ∧ c = c' := by
  simp only [cellIndex, Config.fbWidth_eq] at *
  omega

theorem cellIndex_lt {r c : Nat} (hr : r < Config.fbHeight) (hc : c < Config.fbWidth) : cellIndex r c < cellCount := by
  simp only [cellIndex, Config.fbWidth_eq, Config.fbHeight_eq, cellCount_eq] at *
  omega

theorem nodup_rowCells (row cx : Nat) (b : Byte) : (rowCells row cx b).Nodup := by
  unfold rowCells
  rw [List.nodup_map_iff_inj_on (List.Nodup.filter _ (by decide))]
  intro c hc d hd h
  have h8 : ∀ e, e ∈ [0, 1, 2, 3, 4, 5, 6, 7].filter (spritePixel b) → e < 8 := by
    intro e he
    have := List.mem_of_mem_filter he
    simp at this
    omega
  have hc8 := h8 c hc
  have hd8 := h8 d hd
  have := (cellIndex_inj (Nat.mod_lt _ (by decide)) (Nat.mod_lt _ (by decide)) h).2
  simp only [Config.fbWidth_eq] at this
  omega

/-- Each screen cell is toggled at most once by one sprite of at most 32 rows (R173 a). -/
theorem nodup_spriteCells (cx cy : Nat) (bs : List Byte) (h : bs.length ≤ Config.fbHeight) : (spriteCells cx cy bs).Nodup := by
  induction bs generalizing cy with
  | nil => simp [spriteCells]
  | cons b bs ih =>
    simp only [List.length_cons, Config.fbHeight_eq] at h
    rw [spriteCells, List.nodup_append]
    refine ⟨nodup_rowCells _ _ _, ih _ (by simp only [Config.fbHeight_eq]; omega), ?_⟩
    rintro j hj k hk rfl
    obtain ⟨c, -, -, hjc⟩ := (mem_rowCells _ _ _ _).1 hj
    obtain ⟨r, hr, d, -, -, hjd⟩ := (mem_spriteCells _ _ _ _).1 hk
    have := (cellIndex_inj (Nat.mod_lt _ (by decide)) (Nat.mod_lt _ (by decide)) (hjc.symm.trans hjd)).1
    simp only [Config.fbHeight_eq] at this
    omega

theorem spriteCells_lt (cx cy : Nat) (bs : List Byte) : ∀ k ∈ spriteCells cx cy bs, k < cellCount := by
  intro k hk
  obtain ⟨r, -, c, -, -, rfl⟩ := (mem_spriteCells _ _ _ _).1 hk
  exact cellIndex_lt (Nat.mod_lt _ (by decide)) (Nat.mod_lt _ (by decide))

/-- What drawing a sprite of at most 32 rows does: the cells of its 1 pixels are toggled, no other; there is a collision when
one of them was set. -/
theorem plotRows_spec (cx cy : Nat) (bs : List Byte) (h : bs.length ≤ Config.fbHeight) (fb : Framebuffer) (hit : Bool) :
    (∀ j, (plotRows cx cy bs (fb, hit)).1.cell j = (fb.cell j ^^ decide (j ∈ spriteCells cx cy bs))) ∧
      (plotRows cx cy bs (fb, hit)).2 = (hit || (spriteCells cx cy bs).any fb.cell) := by
  rw [plotRows_eq_foldl]
  exact foldl_plotPixel _ (nodup_spriteCells cx cy bs h) (spriteCells_lt cx cy bs) fb hit

/-- The cells DRW Vx, Vy, n toggles. -/
def State.drawnCells (s : State) (x y : RegIndex) (n : Nat) : List Nat :=
  spriteCells ((s.getV x).toNat % Config.fbWidth) ((s.getV y).toNat % Config.fbHeight) (s.sprite n)

/-- What DRW's drawing does, with its operands. -/
theorem State.drawSprite_spec (s : State) (x y : RegIndex) (n : Nat) (h : n ≤ Config.fbHeight) :
    (∀ j, (s.drawSprite x y n).1.cell j = (s.fb.cell j ^^ decide (j ∈ s.drawnCells x y n))) ∧
      (s.drawSprite x y n).2 = (s.drawnCells x y n).any s.fb.cell := by
  have := plotRows_spec ((s.getV x).toNat % Config.fbWidth) ((s.getV y).toNat % Config.fbHeight) (s.sprite n)
    (by simpa [State.sprite, Memory.readBytes] using h) s.fb false
  simp only [Bool.false_or] at this
  exact this

end Sys2Proof.Machine
end

