-- ==== Sys2Proof/Laws/State.lean ====
section
/-! SUPPORT. The field lemmas of the state's updates: for each named update, what each field holds after it. -/

namespace Sys2Proof.Machine

variable (s : State)

/-! `State.setV` -/

@[simp] theorem State.setV_v (x : RegIndex) (b : Byte) : (s.setV x b).v = s.v.set x.val b := rfl
@[simp] theorem State.setV_i (x : RegIndex) (b : Byte) : (s.setV x b).i = s.i := rfl
@[simp] theorem State.setV_pc (x : RegIndex) (b : Byte) : (s.setV x b).pc = s.pc := rfl
@[simp] theorem State.setV_stack (x : RegIndex) (b : Byte) : (s.setV x b).stack = s.stack := rfl
@[simp] theorem State.setV_sp (x : RegIndex) (b : Byte) : (s.setV x b).sp = s.sp := rfl
@[simp] theorem State.setV_dt (x : RegIndex) (b : Byte) : (s.setV x b).dt = s.dt := rfl
@[simp] theorem State.setV_st (x : RegIndex) (b : Byte) : (s.setV x b).st = s.st := rfl
@[simp] theorem State.setV_mem (x : RegIndex) (b : Byte) : (s.setV x b).mem = s.mem := rfl
@[simp] theorem State.setV_fb (x : RegIndex) (b : Byte) : (s.setV x b).fb = s.fb := rfl
@[simp] theorem State.setV_redraw (x : RegIndex) (b : Byte) : (s.setV x b).redraw = s.redraw := rfl
@[simp] theorem State.setV_keys (x : RegIndex) (b : Byte) : (s.setV x b).keys = s.keys := rfl
@[simp] theorem State.setV_run (x : RegIndex) (b : Byte) : (s.setV x b).run = s.run := rfl
@[simp] theorem State.setV_draws (x : RegIndex) (b : Byte) : (s.setV x b).draws = s.draws := rfl

/-! `State.setI` -/

@[simp] theorem State.setI_v (w : Word) : (s.setI w).v = s.v := rfl
@[simp] theorem State.setI_i (w : Word) : (s.setI w).i = w := rfl
@[simp] theorem State.setI_pc (w : Word) : (s.setI w).pc = s.pc := rfl
@[simp] theorem State.setI_stack (w : Word) : (s.setI w).stack = s.stack := rfl
@[simp] theorem State.setI_sp (w : Word) : (s.setI w).sp = s.sp := rfl
@[simp] theorem State.setI_dt (w : Word) : (s.setI w).dt = s.dt := rfl
@[simp] theorem State.setI_st (w : Word) : (s.setI w).st = s.st := rfl
@[simp] theorem State.setI_mem (w : Word) : (s.setI w).mem = s.mem := rfl
@[simp] theorem State.setI_fb (w : Word) : (s.setI w).fb = s.fb := rfl
@[simp] theorem State.setI_redraw (w : Word) : (s.setI w).redraw = s.redraw := rfl
@[simp] theorem State.setI_keys (w : Word) : (s.setI w).keys = s.keys := rfl
@[simp] theorem State.setI_run (w : Word) : (s.setI w).run = s.run := rfl
@[simp] theorem State.setI_draws (w : Word) : (s.setI w).draws = s.draws := rfl
@[simp] theorem State.getV_setI (w : Word) (j : RegIndex) : (s.setI w).getV j = s.getV j := rfl

/-! `State.setPc` -/

@[simp] theorem State.setPc_v (w : Word) : (s.setPc w).v = s.v := rfl
@[simp] theorem State.setPc_i (w : Word) : (s.setPc w).i = s.i := rfl
@[simp] theorem State.setPc_pc (w : Word) : (s.setPc w).pc = w := rfl
@[simp] theorem State.setPc_stack (w : Word) : (s.setPc w).stack = s.stack := rfl
@[simp] theorem State.setPc_sp (w : Word) : (s.setPc w).sp = s.sp := rfl
@[simp] theorem State.setPc_dt (w : Word) : (s.setPc w).dt = s.dt := rfl
@[simp] theorem State.setPc_st (w : Word) : (s.setPc w).st = s.st := rfl
@[simp] theorem State.setPc_mem (w : Word) : (s.setPc w).mem = s.mem := rfl
@[simp] theorem State.setPc_fb (w : Word) : (s.setPc w).fb = s.fb := rfl
@[simp] theorem State.setPc_redraw (w : Word) : (s.setPc w).redraw = s.redraw := rfl
@[simp] theorem State.setPc_keys (w : Word) : (s.setPc w).keys = s.keys := rfl
@[simp] theorem State.setPc_run (w : Word) : (s.setPc w).run = s.run := rfl
@[simp] theorem State.setPc_draws (w : Word) : (s.setPc w).draws = s.draws := rfl
@[simp] theorem State.getV_setPc (w : Word) (j : RegIndex) : (s.setPc w).getV j = s.getV j := rfl

/-! `State.setDt` -/

@[simp] theorem State.setDt_v (b : Byte) : (s.setDt b).v = s.v := rfl
@[simp] theorem State.setDt_i (b : Byte) : (s.setDt b).i = s.i := rfl
@[simp] theorem State.setDt_pc (b : Byte) : (s.setDt b).pc = s.pc := rfl
@[simp] theorem State.setDt_stack (b : Byte) : (s.setDt b).stack = s.stack := rfl
@[simp] theorem State.setDt_sp (b : Byte) : (s.setDt b).sp = s.sp := rfl
@[simp] theorem State.setDt_dt (b : Byte) : (s.setDt b).dt = b := rfl
@[simp] theorem State.setDt_st (b : Byte) : (s.setDt b).st = s.st := rfl
@[simp] theorem State.setDt_mem (b : Byte) : (s.setDt b).mem = s.mem := rfl
@[simp] theorem State.setDt_fb (b : Byte) : (s.setDt b).fb = s.fb := rfl
@[simp] theorem State.setDt_redraw (b : Byte) : (s.setDt b).redraw = s.redraw := rfl
@[simp] theorem State.setDt_keys (b : Byte) : (s.setDt b).keys = s.keys := rfl
@[simp] theorem State.setDt_run (b : Byte) : (s.setDt b).run = s.run := rfl
@[simp] theorem State.setDt_draws (b : Byte) : (s.setDt b).draws = s.draws := rfl
@[simp] theorem State.getV_setDt (b : Byte) (j : RegIndex) : (s.setDt b).getV j = s.getV j := rfl

/-! `State.setSt` -/

@[simp] theorem State.setSt_v (b : Byte) : (s.setSt b).v = s.v := rfl
@[simp] theorem State.setSt_i (b : Byte) : (s.setSt b).i = s.i := rfl
@[simp] theorem State.setSt_pc (b : Byte) : (s.setSt b).pc = s.pc := rfl
@[simp] theorem State.setSt_stack (b : Byte) : (s.setSt b).stack = s.stack := rfl
@[simp] theorem State.setSt_sp (b : Byte) : (s.setSt b).sp = s.sp := rfl
@[simp] theorem State.setSt_dt (b : Byte) : (s.setSt b).dt = s.dt := rfl
@[simp] theorem State.setSt_st (b : Byte) : (s.setSt b).st = b := rfl
@[simp] theorem State.setSt_mem (b : Byte) : (s.setSt b).mem = s.mem := rfl
@[simp] theorem State.setSt_fb (b : Byte) : (s.setSt b).fb = s.fb := rfl
@[simp] theorem State.setSt_redraw (b : Byte) : (s.setSt b).redraw = s.redraw := rfl
@[simp] theorem State.setSt_keys (b : Byte) : (s.setSt b).keys = s.keys := rfl
@[simp] theorem State.setSt_run (b : Byte) : (s.setSt b).run = s.run := rfl
@[simp] theorem State.setSt_draws (b : Byte) : (s.setSt b).draws = s.draws := rfl
@[simp] theorem State.getV_setSt (b : Byte) (j : RegIndex) : (s.setSt b).getV j = s.getV j := rfl

/-! `State.setScreen` -/

@[simp] theorem State.setScreen_v (fb : Framebuffer) : (s.setScreen fb).v = s.v := rfl
@[simp] theorem State.setScreen_i (fb : Framebuffer) : (s.setScreen fb).i = s.i := rfl
@[simp] theorem State.setScreen_pc (fb : Framebuffer) : (s.setScreen fb).pc = s.pc := rfl
@[simp] theorem State.setScreen_stack (fb : Framebuffer) : (s.setScreen fb).stack = s.stack := rfl
@[simp] theorem State.setScreen_sp (fb : Framebuffer) : (s.setScreen fb).sp = s.sp := rfl
@[simp] theorem State.setScreen_dt (fb : Framebuffer) : (s.setScreen fb).dt = s.dt := rfl
@[simp] theorem State.setScreen_st (fb : Framebuffer) : (s.setScreen fb).st = s.st := rfl
@[simp] theorem State.setScreen_mem (fb : Framebuffer) : (s.setScreen fb).mem = s.mem := rfl
@[simp] theorem State.setScreen_fb (fb : Framebuffer) : (s.setScreen fb).fb = fb := rfl
@[simp] theorem State.setScreen_redraw (fb : Framebuffer) : (s.setScreen fb).redraw = true := rfl
@[simp] theorem State.setScreen_keys (fb : Framebuffer) : (s.setScreen fb).keys = s.keys := rfl
@[simp] theorem State.setScreen_run (fb : Framebuffer) : (s.setScreen fb).run = s.run := rfl
@[simp] theorem State.setScreen_draws (fb : Framebuffer) : (s.setScreen fb).draws = s.draws := rfl
@[simp] theorem State.getV_setScreen (fb : Framebuffer) (j : RegIndex) : (s.setScreen fb).getV j = s.getV j := rfl

/-! `State.storeAtI` -/

@[simp] theorem State.storeAtI_v (us : List Byte) : (s.storeAtI us).v = s.v := rfl
@[simp] theorem State.storeAtI_i (us : List Byte) : (s.storeAtI us).i = s.i := rfl
@[simp] theorem State.storeAtI_pc (us : List Byte) : (s.storeAtI us).pc = s.pc := rfl
@[simp] theorem State.storeAtI_stack (us : List Byte) : (s.storeAtI us).stack = s.stack := rfl
@[simp] theorem State.storeAtI_sp (us : List Byte) : (s.storeAtI us).sp = s.sp := rfl
@[simp] theorem State.storeAtI_dt (us : List Byte) : (s.storeAtI us).dt = s.dt := rfl
@[simp] theorem State.storeAtI_st (us : List Byte) : (s.storeAtI us).st = s.st := rfl
@[simp] theorem State.storeAtI_mem (us : List Byte) : (s.storeAtI us).mem = s.mem.writeBytes (s.effectiveAddress 0) us := rfl
@[simp] theorem State.storeAtI_fb (us : List Byte) : (s.storeAtI us).fb = s.fb := rfl
@[simp] theorem State.storeAtI_redraw (us : List Byte) : (s.storeAtI us).redraw = s.redraw := rfl
@[simp] theorem State.storeAtI_keys (us : List Byte) : (s.storeAtI us).keys = s.keys := rfl
@[simp] theorem State.storeAtI_run (us : List Byte) : (s.storeAtI us).run = s.run := rfl
@[simp] theorem State.storeAtI_draws (us : List Byte) : (s.storeAtI us).draws = s.draws := rfl
@[simp] theorem State.getV_storeAtI (us : List Byte) (j : RegIndex) : (s.storeAtI us).getV j = s.getV j := rfl

/-! `State.loadRegisters` -/

@[simp] theorem State.loadRegisters_i (x : RegIndex) : (s.loadRegisters x).i = s.i := rfl
@[simp] theorem State.loadRegisters_pc (x : RegIndex) : (s.loadRegisters x).pc = s.pc := rfl
@[simp] theorem State.loadRegisters_stack (x : RegIndex) : (s.loadRegisters x).stack = s.stack := rfl
@[simp] theorem State.loadRegisters_sp (x : RegIndex) : (s.loadRegisters x).sp = s.sp := rfl
@[simp] theorem State.loadRegisters_dt (x : RegIndex) : (s.loadRegisters x).dt = s.dt := rfl
@[simp] theorem State.loadRegisters_st (x : RegIndex) : (s.loadRegisters x).st = s.st := rfl
@[simp] theorem State.loadRegisters_mem (x : RegIndex) : (s.loadRegisters x).mem = s.mem := rfl
@[simp] theorem State.loadRegisters_fb (x : RegIndex) : (s.loadRegisters x).fb = s.fb := rfl
@[simp] theorem State.loadRegisters_redraw (x : RegIndex) : (s.loadRegisters x).redraw = s.redraw := rfl
@[simp] theorem State.loadRegisters_keys (x : RegIndex) : (s.loadRegisters x).keys = s.keys := rfl
@[simp] theorem State.loadRegisters_run (x : RegIndex) : (s.loadRegisters x).run = s.run := rfl
@[simp] theorem State.loadRegisters_draws (x : RegIndex) : (s.loadRegisters x).draws = s.draws := rfl

/-! `State.advance` -/

@[simp] theorem State.advance_v : (s.advance).v = s.v := rfl
@[simp] theorem State.advance_i : (s.advance).i = s.i := rfl
@[simp] theorem State.advance_pc : (s.advance).pc = s.pc + 2 := rfl
@[simp] theorem State.advance_stack : (s.advance).stack = s.stack := rfl
@[simp] theorem State.advance_sp : (s.advance).sp = s.sp := rfl
@[simp] theorem State.advance_dt : (s.advance).dt = s.dt := rfl
@[simp] theorem State.advance_st : (s.advance).st = s.st := rfl
@[simp] theorem State.advance_mem : (s.advance).mem = s.mem := rfl
@[simp] theorem State.advance_fb : (s.advance).fb = s.fb := rfl
@[simp] theorem State.advance_redraw : (s.advance).redraw = s.redraw := rfl
@[simp] theorem State.advance_keys : (s.advance).keys = s.keys := rfl
@[simp] theorem State.advance_run : (s.advance).run = s.run := rfl
@[simp] theorem State.advance_draws : (s.advance).draws = s.draws := rfl
@[simp] theorem State.getV_advance (j : RegIndex) : (s.advance).getV j = s.getV j := rfl

/-! `State.rewind` -/

@[simp] theorem State.rewind_v : (s.rewind).v = s.v := rfl
@[simp] theorem State.rewind_i : (s.rewind).i = s.i := rfl
@[simp] theorem State.rewind_pc : (s.rewind).pc = s.pc - 2 := rfl
@[simp] theorem State.rewind_stack : (s.rewind).stack = s.stack := rfl
@[simp] theorem State.rewind_sp : (s.rewind).sp = s.sp := rfl
@[simp] theorem State.rewind_dt : (s.rewind).dt = s.dt := rfl
@[simp] theorem State.rewind_st : (s.rewind).st = s.st := rfl
@[simp] theorem State.rewind_mem : (s.rewind).mem = s.mem := rfl
@[simp] theorem State.rewind_fb : (s.rewind).fb = s.fb := rfl
@[simp] theorem State.rewind_redraw : (s.rewind).redraw = s.redraw := rfl
@[simp] theorem State.rewind_keys : (s.rewind).keys = s.keys := rfl
@[simp] theorem State.rewind_run : (s.rewind).run = s.run := rfl
@[simp] theorem State.rewind_draws : (s.rewind).draws = s.draws := rfl
@[simp] theorem State.getV_rewind (j : RegIndex) : (s.rewind).getV j = s.getV j := rfl

/-! `State.pushReturn` -/

@[simp] theorem State.pushReturn_v (h : s.sp.val < Config.stackDepth) : (s.pushReturn h).v = s.v := rfl
@[simp] theorem State.pushReturn_i (h : s.sp.val < Config.stackDepth) : (s.pushReturn h).i = s.i := rfl
@[simp] theorem State.pushReturn_pc (h : s.sp.val < Config.stackDepth) : (s.pushReturn h).pc = s.pc := rfl
@[simp] theorem State.pushReturn_stack (h : s.sp.val < Config.stackDepth) : (s.pushReturn h).stack = s.stack.set s.sp.val s.pc h := rfl
@[simp] theorem State.pushReturn_sp (h : s.sp.val < Config.stackDepth) : (s.pushReturn h).sp = ⟨s.sp.val + 1, Nat.succ_lt_succ h⟩ := rfl
@[simp] theorem State.pushReturn_dt (h : s.sp.val < Config.stackDepth) : (s.pushReturn h).dt = s.dt := rfl
@[simp] theorem State.pushReturn_st (h : s.sp.val < Config.stackDepth) : (s.pushReturn h).st = s.st := rfl
@[simp] theorem State.pushReturn_mem (h : s.sp.val < Config.stackDepth) : (s.pushReturn h).mem = s.mem := rfl
@[simp] theorem State.pushReturn_fb (h : s.sp.val < Config.stackDepth) : (s.pushReturn h).fb = s.fb := rfl
@[simp] theorem State.pushReturn_redraw (h : s.sp.val < Config.stackDepth) : (s.pushReturn h).redraw = s.redraw := rfl
@[simp] theorem State.pushReturn_keys (h : s.sp.val < Config.stackDepth) : (s.pushReturn h).keys = s.keys := rfl
@[simp] theorem State.pushReturn_run (h : s.sp.val < Config.stackDepth) : (s.pushReturn h).run = s.run := rfl
@[simp] theorem State.pushReturn_draws (h : s.sp.val < Config.stackDepth) : (s.pushReturn h).draws = s.draws := rfl
@[simp] theorem State.getV_pushReturn (h : s.sp.val < Config.stackDepth) (j : RegIndex) : (s.pushReturn h).getV j = s.getV j := rfl

/-! `State.popReturn` -/

@[simp] theorem State.popReturn_v (h : 0 < s.sp.val) : (s.popReturn h).v = s.v := rfl
@[simp] theorem State.popReturn_i (h : 0 < s.sp.val) : (s.popReturn h).i = s.i := rfl
@[simp] theorem State.popReturn_stack (h : 0 < s.sp.val) : (s.popReturn h).stack = s.stack := rfl
@[simp] theorem State.popReturn_dt (h : 0 < s.sp.val) : (s.popReturn h).dt = s.dt := rfl
@[simp] theorem State.popReturn_st (h : 0 < s.sp.val) : (s.popReturn h).st = s.st := rfl
@[simp] theorem State.popReturn_mem (h : 0 < s.sp.val) : (s.popReturn h).mem = s.mem := rfl
@[simp] theorem State.popReturn_fb (h : 0 < s.sp.val) : (s.popReturn h).fb = s.fb := rfl
@[simp] theorem State.popReturn_redraw (h : 0 < s.sp.val) : (s.popReturn h).redraw = s.redraw := rfl
@[simp] theorem State.popReturn_keys (h : 0 < s.sp.val) : (s.popReturn h).keys = s.keys := rfl
@[simp] theorem State.popReturn_run (h : 0 < s.sp.val) : (s.popReturn h).run = s.run := rfl
@[simp] theorem State.popReturn_draws (h : 0 < s.sp.val) : (s.popReturn h).draws = s.draws := rfl
@[simp] theorem State.getV_popReturn (h : 0 < s.sp.val) (j : RegIndex) : (s.popReturn h).getV j = s.getV j := rfl

/-! `State.faultAt` -/

@[simp] theorem State.faultAt_v (k : FaultKind) (a : Word) : (s.faultAt k a).v = s.v := rfl
@[simp] theorem State.faultAt_i (k : FaultKind) (a : Word) : (s.faultAt k a).i = s.i := rfl
@[simp] theorem State.faultAt_pc (k : FaultKind) (a : Word) : (s.faultAt k a).pc = s.pc := rfl
@[simp] theorem State.faultAt_stack (k : FaultKind) (a : Word) : (s.faultAt k a).stack = s.stack := rfl
@[simp] theorem State.faultAt_sp (k : FaultKind) (a : Word) : (s.faultAt k a).sp = s.sp := rfl
@[simp] theorem State.faultAt_dt (k : FaultKind) (a : Word) : (s.faultAt k a).dt = s.dt := rfl
@[simp] theorem State.faultAt_st (k : FaultKind) (a : Word) : (s.faultAt k a).st = s.st := rfl
@[simp] theorem State.faultAt_mem (k : FaultKind) (a : Word) : (s.faultAt k a).mem = s.mem := rfl
@[simp] theorem State.faultAt_fb (k : FaultKind) (a : Word) : (s.faultAt k a).fb = s.fb := rfl
@[simp] theorem State.faultAt_redraw (k : FaultKind) (a : Word) : (s.faultAt k a).redraw = s.redraw := rfl
@[simp] theorem State.faultAt_keys (k : FaultKind) (a : Word) : (s.faultAt k a).keys = s.keys := rfl
@[simp] theorem State.faultAt_run (k : FaultKind) (a : Word) : (s.faultAt k a).run = .faulted k a := rfl
@[simp] theorem State.faultAt_draws (k : FaultKind) (a : Word) : (s.faultAt k a).draws = s.draws := rfl
@[simp] theorem State.getV_faultAt (k : FaultKind) (a : Word) (j : RegIndex) : (s.faultAt k a).getV j = s.getV j := rfl

/-! `State.raise` -/

@[simp] theorem State.raise_v (k : FaultKind) : (s.raise k).v = s.v := rfl
@[simp] theorem State.raise_i (k : FaultKind) : (s.raise k).i = s.i := rfl
@[simp] theorem State.raise_pc (k : FaultKind) : (s.raise k).pc = s.pc := rfl
@[simp] theorem State.raise_stack (k : FaultKind) : (s.raise k).stack = s.stack := rfl
@[simp] theorem State.raise_sp (k : FaultKind) : (s.raise k).sp = s.sp := rfl
@[simp] theorem State.raise_dt (k : FaultKind) : (s.raise k).dt = s.dt := rfl
@[simp] theorem State.raise_st (k : FaultKind) : (s.raise k).st = s.st := rfl
@[simp] theorem State.raise_mem (k : FaultKind) : (s.raise k).mem = s.mem := rfl
@[simp] theorem State.raise_fb (k : FaultKind) : (s.raise k).fb = s.fb := rfl
@[simp] theorem State.raise_redraw (k : FaultKind) : (s.raise k).redraw = s.redraw := rfl
@[simp] theorem State.raise_keys (k : FaultKind) : (s.raise k).keys = s.keys := rfl
@[simp] theorem State.raise_run (k : FaultKind) : (s.raise k).run = .faulted k s.instrAddress := rfl
@[simp] theorem State.raise_draws (k : FaultKind) : (s.raise k).draws = s.draws := rfl
@[simp] theorem State.getV_raise (k : FaultKind) (j : RegIndex) : (s.raise k).getV j = s.getV j := rfl

/-! `State.halt` -/

@[simp] theorem State.halt_v : (s.halt).v = s.v := rfl
@[simp] theorem State.halt_i : (s.halt).i = s.i := rfl
@[simp] theorem State.halt_pc : (s.halt).pc = s.pc := rfl
@[simp] theorem State.halt_stack : (s.halt).stack = s.stack := rfl
@[simp] theorem State.halt_sp : (s.halt).sp = s.sp := rfl
@[simp] theorem State.halt_dt : (s.halt).dt = s.dt := rfl
@[simp] theorem State.halt_st : (s.halt).st = s.st := rfl
@[simp] theorem State.halt_mem : (s.halt).mem = s.mem := rfl
@[simp] theorem State.halt_fb : (s.halt).fb = s.fb := rfl
@[simp] theorem State.halt_redraw : (s.halt).redraw = s.redraw := rfl
@[simp] theorem State.halt_keys : (s.halt).keys = s.keys := rfl
@[simp] theorem State.halt_run : (s.halt).run = .halted s.instrAddress := rfl
@[simp] theorem State.halt_draws : (s.halt).draws = s.draws := rfl
@[simp] theorem State.getV_halt (j : RegIndex) : (s.halt).getV j = s.getV j := rfl

/-! `State.countDraw` -/

@[simp] theorem State.countDraw_v : (s.countDraw).v = s.v := rfl
@[simp] theorem State.countDraw_i : (s.countDraw).i = s.i := rfl
@[simp] theorem State.countDraw_pc : (s.countDraw).pc = s.pc := rfl
@[simp] theorem State.countDraw_stack : (s.countDraw).stack = s.stack := rfl
@[simp] theorem State.countDraw_sp : (s.countDraw).sp = s.sp := rfl
@[simp] theorem State.countDraw_dt : (s.countDraw).dt = s.dt := rfl
@[simp] theorem State.countDraw_st : (s.countDraw).st = s.st := rfl
@[simp] theorem State.countDraw_mem : (s.countDraw).mem = s.mem := rfl
@[simp] theorem State.countDraw_fb : (s.countDraw).fb = s.fb := rfl
@[simp] theorem State.countDraw_redraw : (s.countDraw).redraw = s.redraw := rfl
@[simp] theorem State.countDraw_keys : (s.countDraw).keys = s.keys := rfl
@[simp] theorem State.countDraw_run : (s.countDraw).run = s.run := rfl
@[simp] theorem State.countDraw_draws : (s.countDraw).draws = s.draws + 1 := rfl
@[simp] theorem State.getV_countDraw (j : RegIndex) : (s.countDraw).getV j = s.getV j := rfl

end Sys2Proof.Machine
end

