-- ==== Sys2Proof/Laws/Registers.lean ====
section
/-! SUPPORT. Reading registers after the register writes, the stack operations and the skips. -/

namespace Sys2Proof.Machine

theorem State.getV_setV (s : State) (x k : RegIndex) (b : Byte) :
    (s.setV x b).getV k = if k = x then b else s.getV k := by
  simp only [State.getV, State.setV, Vector.getElem_set, Fin.ext_iff, eq_comm]

@[simp] theorem State.getV_setV_self (s : State) (x : RegIndex) (b : Byte) : (s.setV x b).getV x = b := by
  simp [State.getV_setV]

theorem State.getV_setV_ne (s : State) {x k : RegIndex} (b : Byte) (h : k ≠ x) : (s.setV x b).getV k = s.getV k := by
  simp [State.getV_setV, h]

theorem State.getV_loadRegisters (s : State) (x k : RegIndex) :
    (s.loadRegisters x).getV k =
      if k.val ≤ x.val then s.mem.read (s.effectiveAddress k.val) else s.getV k := by
  simp [State.getV, State.loadRegisters]

theorem State.skipIf_pc (s : State) (c : Bool) : (s.skipIf c).pc = if c then s.pc + 2 else s.pc := by
  cases c <;> rfl

/-- A skip changes the pc alone. -/
theorem State.skipIf_eq (s : State) (c : Bool) : s.skipIf c = s.setPc (if c then s.pc + 2 else s.pc) := by
  cases c <;> rfl

theorem State.popReturn_pc (s : State) (h : 0 < s.sp.val) :
    (s.popReturn h).pc = s.stack[s.sp.val - 1]'(by omega) := rfl

theorem State.popReturn_sp (s : State) (h : 0 < s.sp.val) : (s.popReturn h).sp.val = s.sp.val - 1 := rfl

/-- A pop takes back what a push stored, and the pointer. -/
theorem State.popReturn_pushReturn (s : State) (h : s.sp.val < Config.stackDepth) (w : Word)
    (h' : 0 < ((s.pushReturn h).setPc w).sp.val) :
    (((s.pushReturn h).setPc w).popReturn h').pc = s.pc ∧ (((s.pushReturn h).setPc w).popReturn h').sp = s.sp := by
  constructor
  · simp [State.popReturn_pc]
  · apply Fin.ext
    simp [State.popReturn_sp]

/-- The bounds check, as a fact of arithmetic (R57). -/
theorem inBounds_iff (a n : Nat) : inBounds a n = true ↔ n = 0 ∨ a + n - 1 ≤ 0xFFF := by
  simp [inBounds]

theorem inBounds_eq_false (a n : Nat) : inBounds a n = false ↔ n ≠ 0 ∧ 0xFFF < a + n - 1 := by
  rw [← Bool.not_eq_true, inBounds_iff]
  omega

/-- The one thing the fault discipline can answer (R107). -/
theorem State.unlessFault_eq (s done : State) (ok : Bool) (k : FaultKind) :
    s.unlessFault ok k done = .next (if ok then done else s.raise k) := rfl

theorem State.unlessFault_next {s done t : State} {ok : Bool} {k : FaultKind}
    (h : s.unlessFault ok k done = .next t) : (ok = true ∧ t = done) ∨ (ok = false ∧ t = s.raise k) := by
  cases ok <;> simp [State.unlessFault] at h ⊢ <;> exact h.symm

/-- A shift of a register that is not VF: VF holds the bit shifted out, under every reading of `SHIFT_VF_DEST`. -/
theorem State.shiftRegister_getV (m : Config.ShiftVfDest) (s : State) (x k : RegIndex) (out shift : Byte → Byte) (hx : x ≠ vf) :
    (s.shiftRegister m x out shift).getV k =
      if k = vf then out (s.getV x) else if k = x then shift (s.getV x) else s.getV k := by
  cases m <;> by_cases h1 : k = vf <;> by_cases h2 : k = x <;> simp_all [State.shiftRegister, State.getV_setV]

/-- A shift of VF itself (U7). -/
theorem State.shiftRegister_vf (m : Config.ShiftVfDest) (s : State) (k : RegIndex) (out shift : Byte → Byte) :
    (s.shiftRegister m vf out shift).getV k =
      if k = vf then
        (match m with
          | .sequential => shift (out (s.getV vf))
          | .snapshotResult => shift (s.getV vf)
          | .flagLast => out (s.getV vf))
      else s.getV k := by
  cases m <;> by_cases h : k = vf <;> simp [State.shiftRegister, State.getV_setV, h]

/-- A shift writes registers only. -/
theorem State.shiftRegister_eq (m : Config.ShiftVfDest) (s : State) (x : RegIndex) (out shift : Byte → Byte) :
    ∃ v, s.shiftRegister m x out shift = { s with v := v } := by
  cases m <;> exact ⟨_, rfl⟩

/-- The key index is V[x] when V[x] ≤ 15, and there is none above (R190). -/
theorem State.keyIndex_eq_some (s : State) (x : RegIndex) (k : Fin 16) :
    s.keyIndex x = some k ↔ (s.getV x).toNat = k.val := by
  unfold State.keyIndex
  split
  · simp [Fin.ext_iff]
  · simp; omega

theorem State.keyIndex_eq_none (s : State) (x : RegIndex) : s.keyIndex x = none ↔ 15 < (s.getV x).toNat := by
  unfold State.keyIndex
  split <;> simp <;> omega

theorem State.lowestKey_eq_none (s : State) : s.lowestKey = none ↔ ∀ k : Fin 16, s.keyPressed k = false := by
  unfold State.lowestKey State.keyPressed
  rw [List.findIdx?_eq_none_iff]
  simp only [id, Vector.mem_toList_iff, Vector.mem_iff_getElem]
  constructor
  · intro h k
    exact h _ ⟨k.val, k.isLt, rfl⟩
  · rintro h _ ⟨i, hi, rfl⟩
    exact h ⟨i, hi⟩

theorem State.lowestKey_eq_some (s : State) (k : Nat) :
    s.lowestKey = some k ↔ ∃ h : k < 16, s.keyPressed ⟨k, h⟩ = true ∧ ∀ j : Fin 16, j.val < k → s.keyPressed j = false := by
  unfold State.lowestKey State.keyPressed
  rw [List.findIdx?_eq_some_iff_getElem]
  simp only [id, Vector.length_toList, Vector.getElem_toList, Bool.not_eq_true]
  constructor
  · rintro ⟨h, hk, hj⟩
    exact ⟨h, hk, fun j hjk => hj j.val hjk⟩
  · rintro ⟨h, hk, hj⟩
    exact ⟨h, hk, fun j hjk => hj ⟨j, by omega⟩ hjk⟩

end Sys2Proof.Machine
end

