-- ==== Sys2Proof/Laws/Memory.lean ====
section
/-! SUPPORT. Memory: a read after a write, wherever it reads; and every memory operation keeps the canonical form. The read laws
hold of every list of cells, canonical or not. -/

namespace Sys2Proof.Machine

theorem Memory.read_filter_self (m : Memory) (a : Nat) :
    Memory.read (m.filter (fun c => decide (c.1 ≠ a))) a = Memory.resetByte a := by
  induction m with
  | nil => rfl
  | cons c m ih =>
    by_cases h : c.1 = a
    · simpa [List.filter_cons, h] using ih
    · simpa [List.filter_cons, h, Memory.read] using ih

theorem Memory.read_filter_ne (m : Memory) {a b : Nat} (hb : b ≠ a) :
    Memory.read (m.filter (fun c => decide (c.1 ≠ a))) b = m.read b := by
  induction m with
  | nil => rfl
  | cons c m ih =>
    obtain ⟨d, u⟩ := c
    by_cases h : d = a
    · subst h
      simpa [List.filter_cons, Memory.read, Ne.symm hb] using ih
    · simp only [ne_eq, h, not_false_eq_true, decide_true, List.filter_cons_of_pos, Memory.read] at ih ⊢
      rw [ih]

theorem Memory.read_insert_ne (m : Memory) {a b : Nat} (u : Byte) (hb : b ≠ a) : (Memory.insert a u m).read b = m.read b := by
  induction m with
  | nil => simp [Memory.insert, Memory.read, Ne.symm hb]
  | cons c m ih =>
    obtain ⟨d, w⟩ := c
    unfold Memory.insert
    split
    · simp [Memory.read, Ne.symm hb]
    · simp [Memory.read, ih]

theorem Memory.read_insert_self (m : Memory) (a : Nat) (u : Byte) (h : ∀ c ∈ m, c.1 ≠ a) :
    (Memory.insert a u m).read a = u := by
  induction m with
  | nil => simp [Memory.insert, Memory.read]
  | cons c m ih =>
    obtain ⟨d, w⟩ := c
    have hd : d ≠ a := h (d, w) (by simp)
    unfold Memory.insert
    split
    · simp [Memory.read]
    · simp [Memory.read, hd, ih (fun c hc => h c (by simp [hc]))]

theorem Memory.read_write_self (m : Memory) (a : Nat) (u : Byte) : (m.write a u).read a = u := by
  unfold Memory.write
  by_cases h : u = Memory.resetByte a
  · simp only [h, if_true, Memory.read_filter_self]
  · simp only [h, if_false]
    exact Memory.read_insert_self _ _ _ (by simp)

theorem Memory.read_write_ne (m : Memory) {a b : Nat} (u : Byte) (hb : b ≠ a) : (m.write a u).read b = m.read b := by
  unfold Memory.write
  by_cases h : u = Memory.resetByte a
  · simp only [h, if_true, Memory.read_filter_ne m hb]
  · simp only [h, if_false, Memory.read_insert_ne _ _ hb, Memory.read_filter_ne m hb]

theorem Memory.read_write (m : Memory) (a b : Nat) (u : Byte) : (m.write a u).read b = if b = a then u else m.read b := by
  by_cases h : b = a
  · simp [h, Memory.read_write_self]
  · simp [h, Memory.read_write_ne m u h]

/-- What a run of byte writes leaves at every address. -/
theorem Memory.read_writeBytes (m : Memory) (a b : Nat) (us : List Byte) :
    (m.writeBytes a us).read b =
      if h : a ≤ b ∧ b < a + us.length then us[b - a]'(by omega) else m.read b := by
  induction us generalizing m a with
  | nil => simp only [Memory.writeBytes]; rw [dif_neg]; simp
  | cons u us ih =>
    rw [Memory.writeBytes, ih]
    by_cases h1 : a + 1 ≤ b ∧ b < a + 1 + us.length
    · rw [dif_pos h1, dif_pos (by simp; omega)]
      simp only [show b - a = (b - (a + 1)) + 1 by omega, List.getElem_cons_succ]
    · rw [dif_neg h1, Memory.read_write]
      by_cases h2 : b = a
      · subst h2
        simp
      · rw [if_neg h2, dif_neg (by simp; omega)]

/-- The canonical form of a filtered memory. -/
theorem Memory.wf_filter {m : Memory} (h : m.wf) (a : Nat) : Memory.wf (m.filter (fun c => decide (c.1 ≠ a))) :=
  ⟨h.1.filter _, fun c hc => h.2 c (List.mem_of_mem_filter hc)⟩

theorem Memory.mem_insert {m : Memory} {a : Nat} {u : Byte} {c : Host.Cell} (h : c ∈ Memory.insert a u m) :
    c = (a, u) ∨ c ∈ m := by
  induction m with
  | nil => simpa [Memory.insert] using h
  | cons d m ih =>
    obtain ⟨b, w⟩ := d
    unfold Memory.insert at h
    split at h
    · simpa using h
    · rcases List.mem_cons.1 h with h | h
      · exact .inr (by simp [h])
      · rcases ih h with h | h
        · exact .inl h
        · exact .inr (by simp [h])

theorem Memory.wf_insert {m : Memory} (h : m.wf) {a : Nat} {u : Byte} (hm : ∀ c ∈ m, c.1 ≠ a) (ha : a ≤ Config.addrMax)
    (hu : u ≠ Memory.resetByte a) : Memory.wf (Memory.insert a u m) := by
  refine ⟨?_, fun c hc => ?_⟩
  · obtain ⟨hp, -⟩ := h
    induction m with
    | nil => simp [Memory.insert]
    | cons d m ih =>
      obtain ⟨b, w⟩ := d
      rw [List.pairwise_cons] at hp
      have hb : b ≠ a := hm (b, w) (by simp)
      unfold Memory.insert
      split
      · rename_i hab
        refine List.pairwise_cons.2 ⟨fun c hc => ?_, List.pairwise_cons.2 hp⟩
        rcases List.mem_cons.1 hc with rfl | hc
        · exact hab
        · exact hab.trans (hp.1 c hc)
      · rename_i hab
        refine List.pairwise_cons.2 ⟨fun c hc => ?_, ih (fun c hc => hm c (by simp [hc])) hp.2⟩
        rcases Memory.mem_insert hc with rfl | hc
        · exact Nat.lt_of_le_of_ne (Nat.le_of_not_lt hab) hb
        · exact hp.1 c hc
  · rcases Memory.mem_insert hc with rfl | hc
    · exact ⟨ha, hu⟩
    · exact h.2 c hc

/-- A write inside memory keeps the canonical form. -/
theorem Memory.wf_write {m : Memory} (h : m.wf) {a : Nat} (ha : a ≤ Config.addrMax) (u : Byte) : (m.write a u).wf := by
  unfold Memory.write
  by_cases hu : u = Memory.resetByte a
  · simp only [hu, if_true]
    exact Memory.wf_filter h a
  · simp only [hu, if_false]
    exact Memory.wf_insert (Memory.wf_filter h a) (by simp) ha hu

/-- A run of writes inside memory keeps the canonical form. -/
theorem Memory.wf_writeBytes {m : Memory} (h : m.wf) {a : Nat} {us : List Byte} (ha : inBounds a us.length = true) :
    (m.writeBytes a us).wf := by
  induction us generalizing m a with
  | nil => exact h
  | cons u us ih =>
    have hl : a + us.length ≤ 0xFFF := by
      rw [inBounds_iff, List.length_cons] at ha
      omega
    refine ih (Memory.wf_write h (by rw [Config.addrMax_eq]; omega) u) ?_
    rw [inBounds_iff]
    omega

/-- Memory after construction is canonical. -/
theorem Memory.wf_nil : Memory.wf [] :=
  ⟨List.Pairwise.nil, fun _ h => absurd h List.not_mem_nil⟩

@[simp] theorem Memory.length_readBytes (m : Memory) (a n : Nat) : (m.readBytes a n).length = n := by
  simp [Memory.readBytes]

theorem Memory.getElem_readBytes (m : Memory) (a n k : Nat) (h : k < (m.readBytes a n).length) :
    (m.readBytes a n)[k] = m.read (a + k) := by
  simp [Memory.readBytes]

/-- Equal memories are equal data: two canonical memories that read alike are the same list. -/
theorem Memory.eq_of_read_eq {m m' : Memory} (h : m.wf) (h' : m'.wf) (hr : ∀ a, m.read a = m'.read a) : m = m' := by
  have notBelow : ∀ {l : Memory}, l.wf → ∀ a, (∀ c ∈ l, a < c.1) → l.read a = Memory.resetByte a := by
    intro l _ a hl
    induction l with
    | nil => rfl
    | cons c l ih =>
      obtain ⟨b, u⟩ := c
      have hb : b ≠ a := (hl (b, u) (by simp)).ne'
      simp only [Memory.read, hb, if_false]
      rename_i hw
      exact ih ⟨(List.pairwise_cons.1 hw.1).2, fun c hc => hw.2 c (by simp [hc])⟩ (fun c hc => hl c (by simp [hc]))
  have tailWf : ∀ {c : Host.Cell} {l : Memory}, Memory.wf (c :: l) → Memory.wf l := fun hw =>
    ⟨(List.pairwise_cons.1 hw.1).2, fun c hc => hw.2 c (by simp [hc])⟩
  induction m generalizing m' with
  | nil =>
    cases m' with
    | nil => rfl
    | cons c m' =>
      have := hr c.1
      simp only [Memory.read, if_true] at this
      exact absurd this.symm (h'.2 c (by simp)).2
  | cons c m ih =>
    cases m' with
    | nil =>
      have := hr c.1
      simp only [Memory.read, if_true] at this
      exact absurd this (h.2 c (by simp)).2
    | cons d m' =>
      obtain ⟨b, u⟩ := c
      obtain ⟨b', u'⟩ := d
      have hgt : ∀ e ∈ m, b < e.1 := (List.pairwise_cons.1 h.1).1
      have hgt' : ∀ e ∈ m', b' < e.1 := (List.pairwise_cons.1 h'.1).1
      have hbb : b = b' := by
        rcases Nat.lt_trichotomy b b' with hlt | heq | hlt
        · have hb := hr b
          rw [notBelow h' b (by simpa [hlt] using fun e u he => hlt.trans (hgt' (e, u) he))] at hb
          simp only [Memory.read, if_true] at hb
          exact absurd hb (h.2 (b, u) (by simp)).2
        · exact heq
        · have hb := hr b'
          rw [notBelow h b' (by simpa [hlt] using fun e u he => hlt.trans (hgt (e, u) he))] at hb
          simp only [Memory.read, if_true] at hb
          exact absurd hb.symm (h'.2 (b', u') (by simp)).2
      subst hbb
      have huu : u = u' := by simpa [Memory.read] using hr b
      subst huu
      congr 1
      refine ih (tailWf h) (tailWf h') (fun a => ?_)
      by_cases ha : a = b
      · subst ha
        rw [notBelow (tailWf h) _ hgt, notBelow (tailWf h') _ hgt']
      · have := hr a
        simpa [Memory.read, Ne.symm ha] using this

end Sys2Proof.Machine
end

