-- ==== Sys2Proof/Laws/PerInstr.lean ====
section
/-! SUPPORT. One statement about each instruction's encoding: its opcode holds, field by field, what its row of
spec/opcode_table.json says (the row's "fixed" values and its operand fields). -/

namespace Sys2Proof.Laws.EncodesItsTableRow

/-- The fields of the instruction's row, as (highest bit, lowest bit, value). -/
def tableFields : Instr → List (Nat × Nat × Nat)
  | .halt => [(15, 0, 0)]
  | .cls => [(15, 0, 224)]
  | .ret => [(15, 0, 238)]
  | .jp nnn => [(15, 12, 1), (11, 0, nnn.toNat)]
  | .call nnn => [(15, 12, 2), (11, 0, nnn.toNat)]
  | .seImm x kk => [(15, 12, 3), (11, 8, x.val), (7, 0, kk.toNat)]
  | .sneImm x kk => [(15, 12, 4), (11, 8, x.val), (7, 0, kk.toNat)]
  | .seReg x y => [(15, 12, 5), (11, 8, x.val), (7, 4, y.val), (3, 0, 0)]
  | .ldImm x kk => [(15, 12, 6), (11, 8, x.val), (7, 0, kk.toNat)]
  | .addImm x kk => [(15, 12, 7), (11, 8, x.val), (7, 0, kk.toNat)]
  | .ldReg x y => [(15, 12, 8), (11, 8, x.val), (7, 4, y.val), (3, 0, 0)]
  | .orReg x y => [(15, 12, 8), (11, 8, x.val), (7, 4, y.val), (3, 0, 1)]
  | .andReg x y => [(15, 12, 8), (11, 8, x.val), (7, 4, y.val), (3, 0, 2)]
  | .xorReg x y => [(15, 12, 8), (11, 8, x.val), (7, 4, y.val), (3, 0, 3)]
  | .addReg x y => [(15, 12, 8), (11, 8, x.val), (7, 4, y.val), (3, 0, 4)]
  | .subReg x y => [(15, 12, 8), (11, 8, x.val), (7, 4, y.val), (3, 0, 5)]
  | .shr x => [(15, 12, 8), (11, 8, x.val), (3, 0, 6)]
  | .subnReg x y => [(15, 12, 8), (11, 8, x.val), (7, 4, y.val), (3, 0, 7)]
  | .shl x => [(15, 12, 8), (11, 8, x.val), (3, 0, 14)]
  | .sneReg x y => [(15, 12, 9), (11, 8, x.val), (7, 4, y.val), (3, 0, 0)]
  | .ldI nnn => [(15, 12, 10), (11, 0, nnn.toNat)]
  | .jpV0 nnn => [(15, 12, 11), (11, 0, nnn.toNat)]
  | .rnd x kk => [(15, 12, 12), (11, 8, x.val), (7, 0, kk.toNat)]
  | .drw x y n => [(15, 12, 13), (11, 8, x.val), (7, 4, y.val), (3, 0, n.val)]
  | .skp x => [(15, 12, 14), (11, 8, x.val), (7, 0, 158)]
  | .sknp x => [(15, 12, 14), (11, 8, x.val), (7, 0, 161)]
  | .ldVxDt x => [(15, 12, 15), (11, 8, x.val), (7, 0, 7)]
  | .ldVxK x => [(15, 12, 15), (11, 8, x.val), (7, 0, 10)]
  | .ldDtVx x => [(15, 12, 15), (11, 8, x.val), (7, 0, 21)]
  | .ldStVx x => [(15, 12, 15), (11, 8, x.val), (7, 0, 24)]
  | .addI x => [(15, 12, 15), (11, 8, x.val), (7, 0, 30)]
  | .ldF x => [(15, 12, 15), (11, 8, x.val), (7, 0, 41)]
  | .ldB x => [(15, 12, 15), (11, 8, x.val), (7, 0, 51)]
  | .storeRegs x => [(15, 12, 15), (11, 8, x.val), (7, 0, 85)]
  | .loadRegs x => [(15, 12, 15), (11, 8, x.val), (7, 0, 101)]

/-- The opcode's bits hi to lo are the value, for every field of the row. -/
def Statement (i : Instr) : Prop :=
  ∀ f ∈ tableFields i, (encode i).toNat / 2 ^ f.2.1 % 2 ^ (f.1 - f.2.1 + 1) = f.2.2

theorem halt : Statement (.halt) := by
  simp [Statement, tableFields, encode, packDigits]

theorem cls : Statement (.cls) := by
  simp [Statement, tableFields, encode, packDigits]

theorem ret : Statement (.ret) := by
  simp [Statement, tableFields, encode, packDigits]

theorem jp (nnn : Addr12) : Statement (.jp nnn) := by
  simp [Statement, tableFields, encode, packNnn]
  omega

theorem call (nnn : Addr12) : Statement (.call nnn) := by
  simp [Statement, tableFields, encode, packNnn]
  omega

theorem seImm (x : RegIndex) (kk : Byte) : Statement (.seImm x kk) := by
  simp [Statement, tableFields, encode, packKk]
  omega

theorem sneImm (x : RegIndex) (kk : Byte) : Statement (.sneImm x kk) := by
  simp [Statement, tableFields, encode, packKk]
  omega

theorem seReg (x : RegIndex) (y : RegIndex) : Statement (.seReg x y) := by
  simp [Statement, tableFields, encode, packDigits]
  omega

theorem ldImm (x : RegIndex) (kk : Byte) : Statement (.ldImm x kk) := by
  simp [Statement, tableFields, encode, packKk]
  omega

theorem addImm (x : RegIndex) (kk : Byte) : Statement (.addImm x kk) := by
  simp [Statement, tableFields, encode, packKk]
  omega

theorem ldReg (x : RegIndex) (y : RegIndex) : Statement (.ldReg x y) := by
  simp [Statement, tableFields, encode, packDigits]
  omega

theorem orReg (x : RegIndex) (y : RegIndex) : Statement (.orReg x y) := by
  simp [Statement, tableFields, encode, packDigits]
  omega

theorem andReg (x : RegIndex) (y : RegIndex) : Statement (.andReg x y) := by
  simp [Statement, tableFields, encode, packDigits]
  omega

theorem xorReg (x : RegIndex) (y : RegIndex) : Statement (.xorReg x y) := by
  simp [Statement, tableFields, encode, packDigits]
  omega

theorem addReg (x : RegIndex) (y : RegIndex) : Statement (.addReg x y) := by
  simp [Statement, tableFields, encode, packDigits]
  omega

theorem subReg (x : RegIndex) (y : RegIndex) : Statement (.subReg x y) := by
  simp [Statement, tableFields, encode, packDigits]
  omega

theorem shr (x : RegIndex) : Statement (.shr x) := by
  simp [Statement, tableFields, encode, packDigits]
  omega

theorem subnReg (x : RegIndex) (y : RegIndex) : Statement (.subnReg x y) := by
  simp [Statement, tableFields, encode, packDigits]
  omega

theorem shl (x : RegIndex) : Statement (.shl x) := by
  simp [Statement, tableFields, encode, packDigits]
  omega

theorem sneReg (x : RegIndex) (y : RegIndex) : Statement (.sneReg x y) := by
  simp [Statement, tableFields, encode, packDigits]
  omega

theorem ldI (nnn : Addr12) : Statement (.ldI nnn) := by
  simp [Statement, tableFields, encode, packNnn]
  omega

theorem jpV0 (nnn : Addr12) : Statement (.jpV0 nnn) := by
  simp [Statement, tableFields, encode, packNnn]
  omega

theorem rnd (x : RegIndex) (kk : Byte) : Statement (.rnd x kk) := by
  simp [Statement, tableFields, encode, packKk]
  omega

theorem drw (x : RegIndex) (y : RegIndex) (n : Fin 16) : Statement (.drw x y n) := by
  simp [Statement, tableFields, encode, packDigits]
  omega

theorem skp (x : RegIndex) : Statement (.skp x) := by
  simp [Statement, tableFields, encode, packDigits]
  omega

theorem sknp (x : RegIndex) : Statement (.sknp x) := by
  simp [Statement, tableFields, encode, packDigits]
  omega

theorem ldVxDt (x : RegIndex) : Statement (.ldVxDt x) := by
  simp [Statement, tableFields, encode, packDigits]
  omega

theorem ldVxK (x : RegIndex) : Statement (.ldVxK x) := by
  simp [Statement, tableFields, encode, packDigits]
  omega

theorem ldDtVx (x : RegIndex) : Statement (.ldDtVx x) := by
  simp [Statement, tableFields, encode, packDigits]
  omega

theorem ldStVx (x : RegIndex) : Statement (.ldStVx x) := by
  simp [Statement, tableFields, encode, packDigits]
  omega

theorem addI (x : RegIndex) : Statement (.addI x) := by
  simp [Statement, tableFields, encode, packDigits]
  omega

theorem ldF (x : RegIndex) : Statement (.ldF x) := by
  simp [Statement, tableFields, encode, packDigits]
  omega

theorem ldB (x : RegIndex) : Statement (.ldB x) := by
  simp [Statement, tableFields, encode, packDigits]
  omega

theorem storeRegs (x : RegIndex) : Statement (.storeRegs x) := by
  simp [Statement, tableFields, encode, packDigits]
  omega

theorem loadRegs (x : RegIndex) : Statement (.loadRegs x) := by
  simp [Statement, tableFields, encode, packDigits]
  omega

end Sys2Proof.Laws.EncodesItsTableRow
end

