-- ==== Sys2Proof/Laws/Step.lean ====
section
/-! SUPPORT. What one step can do: an ended run, a fetch fault, an unrecognized opcode, or the execution of the decoded
instruction. -/

namespace Sys2Proof.Machine

/-- Fetch reads the two bytes at pc, or fails when pc + 1 > 0xFFF (R101). -/
theorem State.fetch_eq (s : State) :
    s.fetch = if s.pc.toNat ≤ 0xFFE then some [s.mem.read s.pc.toNat, s.mem.read (s.pc.toNat + 1)] else none := by
  by_cases h : s.pc.toNat ≤ 0xFFE
  · rw [if_pos h, State.fetch, if_pos ((inBounds_iff _ _).2 (by omega))]
    simp [Memory.readBytes, List.range_succ]
  · rw [if_neg h, State.fetch, if_neg]
    rw [inBounds_iff]
    omega

/-- Everything a step can answer. -/
theorem step_cases {s t : State} (h : step s = .next t) :
    (s.run ≠ .running ∧ t = s) ∨
    (s.run = .running ∧ 0xFFE < s.pc.toNat ∧ t = s.faultAt .outOfBounds s.pc) ∨
    (s.run = .running ∧ s.pc.toNat ≤ 0xFFE ∧
      (∃ e, decodeOpcode (bigEndian (s.mem.read s.pc.toNat) (s.mem.read (s.pc.toNat + 1))) = .error e) ∧
      t = s.advance.raise .unimplementedInstruction) ∨
    (s.run = .running ∧ s.pc.toNat ≤ 0xFFE ∧
      ∃ i, decodeOpcode (bigEndian (s.mem.read s.pc.toNat) (s.mem.read (s.pc.toNat + 1))) = .ok i ∧
        exec i s.advance = .next t) := by
  unfold step at h
  cases hr : s.run with
  | halted a => rw [hr] at h; exact .inl ⟨by simp, (Host.Outcome.next.inj h).symm⟩
  | faulted k a => rw [hr] at h; exact .inl ⟨by simp, (Host.Outcome.next.inj h).symm⟩
  | running =>
    rw [hr, State.fetch_eq] at h
    by_cases hp : s.pc.toNat ≤ 0xFFE
    · simp only [hp, if_true, decode] at h
      cases hd : decodeOpcode (bigEndian (s.mem.read s.pc.toNat) (s.mem.read (s.pc.toNat + 1))) with
      | error e =>
        rw [hd] at h
        exact .inr (.inr (.inl ⟨rfl, hp, ⟨e, rfl⟩, (Host.Outcome.next.inj h).symm⟩))
      | ok i =>
        rw [hd] at h
        exact .inr (.inr (.inr ⟨rfl, hp, i, rfl, h⟩))
    · simp only [hp, if_false] at h
      exact .inr (.inl ⟨rfl, by omega, (Host.Outcome.next.inj h).symm⟩)

/-- A tick floors each timer at 0 (R239). -/
theorem toNat_tickTimer (b : Byte) : (tickTimer b).toNat = b.toNat - 1 := by
  unfold tickTimer
  split
  · rename_i h; simp [h]
  · rename_i h
    have : b.toNat ≠ 0 := fun h0 => h (BitVec.eq_of_toNat_eq (by simpa using h0))
    rw [BitVec.toNat_sub]
    simp
    omega

end Sys2Proof.Machine
end

