-- ==== Sys2Proof/Machine/Assembly.lean ====
section
/-! DEFINITION. The assembler's text (30_encoding.md R78, R79; decision D28: "syntax has no semantics"). The mnemonics are PRESUMED by
the spec (general knowledge), safe: log 33. No step uses this file. -/

namespace Sys2Proof

/-- One hexadecimal digit, in capitals. -/
def hexDigit (d : Nat) : String :=
  (["0", "1", "2", "3", "4", "5", "6", "7", "8", "9", "A", "B", "C", "D", "E", "F"][d % 16]?).getD ""

/-- The low `k` hexadecimal digits of a number, the highest first. -/
def hexText : Nat → Nat → String
  | 0, _ => ""
  | k + 1, m => hexText k (m / 16) ++ hexDigit m

/-- "`Vx` is register x as a hex digit" (R78). -/
def regText (x : RegIndex) : String :=
  "V" ++ hexDigit x.val

/-- An immediate byte, written `0x..` (R78). -/
def kkText (kk : Byte) : String :=
  "0x" ++ hexText 2 kk.toNat

/-- An address, written `0x..` (R78). -/
def nnnText (nnn : Addr12) : String :=
  "0x" ++ hexText 3 nnn.toNat

/-- A mnemonic with one operand. -/
def asm1 (m a : String) : String :=
  m ++ " " ++ a

/-- A mnemonic with two operands, "destination first, separated by commas" (R78). -/
def asm2 (m a b : String) : String :=
  m ++ " " ++ a ++ ", " ++ b

/-- The instruction's assembly text: the mnemonics of R74's second column, with the operand names of R78. -/
def Instr.text : Instr → String
  | .halt => "HALT"
  | .cls => "CLS"
  | .ret => "RET"
  | .jp nnn => asm1 "JP" (nnnText nnn)
  | .call nnn => asm1 "CALL" (nnnText nnn)
  | .seImm x kk => asm2 "SE" (regText x) (kkText kk)
  | .sneImm x kk => asm2 "SNE" (regText x) (kkText kk)
  | .seReg x y => asm2 "SE" (regText x) (regText y)
  | .ldImm x kk => asm2 "LD" (regText x) (kkText kk)
  | .addImm x kk => asm2 "ADD" (regText x) (kkText kk)
  | .ldReg x y => asm2 "LD" (regText x) (regText y)
  | .orReg x y => asm2 "OR" (regText x) (regText y)
  | .andReg x y => asm2 "AND" (regText x) (regText y)
  | .xorReg x y => asm2 "XOR" (regText x) (regText y)
  | .addReg x y => asm2 "ADD" (regText x) (regText y)
  | .subReg x y => asm2 "SUB" (regText x) (regText y)
  | .shr x => asm1 "SHR" (regText x)
  | .subnReg x y => asm2 "SUBN" (regText x) (regText y)
  | .shl x => asm1 "SHL" (regText x)
  | .sneReg x y => asm2 "SNE" (regText x) (regText y)
  | .ldI nnn => asm2 "LD" "I" (nnnText nnn)
  | .jpV0 nnn => asm2 "JP" "V0" (nnnText nnn)
  | .rnd x kk => asm2 "RND" (regText x) (kkText kk)
  | .drw x y n => asm2 "DRW" (regText x) (regText y) ++ ", " ++ hexDigit n.val
  | .skp x => asm1 "SKP" (regText x)
  | .sknp x => asm1 "SKNP" (regText x)
  | .ldVxDt x => asm2 "LD" (regText x) "DT"
  | .ldVxK x => asm2 "LD" (regText x) "K"
  | .ldDtVx x => asm2 "LD" "DT" (regText x)
  | .ldStVx x => asm2 "LD" "ST" (regText x)
  | .addI x => asm2 "ADD" "I" (regText x)
  | .ldF x => asm2 "LD" "F" (regText x)
  | .ldB x => asm2 "LD" "B" (regText x)
  | .storeRegs x => asm2 "LD" "[I]" (regText x)
  | .loadRegs x => asm2 "LD" (regText x) "[I]"

/-- A line of assembly: "one instruction per line", or a data word `.word 0xHHHH` (R78). -/
inductive AsmLine where
  | instr (i : Instr)
  | word (w : Opcode)
  deriving DecidableEq, Repr

/-- The line's text. -/
def AsmLine.text : AsmLine → String
  | .instr i => i.text
  | .word w => asm1 ".word" ("0x" ++ hexText 4 w.toNat)

/-- The two bytes a line emits, big-endian (R78); an instruction's are those of its one opcode pattern (R79). -/
def AsmLine.bytes : AsmLine → List Byte
  | .instr i => encodeBytes i
  | .word w => opcodeBytes w

/-- The bytes of a program, line by line, as `load` takes them (R261). -/
def assemble (lines : List AsmLine) : List Byte :=
  lines.flatMap AsmLine.bytes

end Sys2Proof
end

