-- ==== Sys2Proof/Tests/Slice0.lean ====
section
/-! SUPPORT. The model's own tests. Expected values are those of spec/95_test_vectors.md (the vector's id stands in the comment) or of
the rule named; none was taken from the model. -/

namespace Sys2Proof.Tests

open Sys2Proof Sys2Proof.Machine

/-! ### Helpers -/

/-- The next state of an answer; none when it stopped. -/
def next? (r : Result) : Option State :=
  match r with
  | .next t => some t
  | .fault _ => none
  | .refused _ => none

/-- The reset state with some registers set. -/
def regs (l : List (RegIndex × Byte)) : State :=
  l.foldl (fun s p => s.setV p.1 p.2) State.reset

/-- Bytes written to memory at an address. -/
def poke (s : State) (a : Nat) (us : List Byte) : State :=
  { s with mem := s.mem.writeBytes a us }

/-- One step of the word at pc. -/
def run1 (s : State) (w : Nat) : Option State :=
  next? (step (s.withFetchWord 16 w))

/-- Only the listed keys are pressed. -/
def press (ks : List Nat) : Vector Bool 16 :=
  Vector.ofFn (fun k : Fin 16 => ks.contains k.val)

/-- The cells of row `r`, as a number: bit c is column c. -/
def row (s : State) (r : Nat) : Nat :=
  (s.fb[r]?.getD 0).toNat

/-! ### WellFormed (R4, D3) -/

theorem test_ill_formed_ldReg_without_parameter : (Instr.ldReg 1 2).wellFormedWith false = false := by decide
theorem test_ill_formed_sneReg_without_parameter : (Instr.sneReg 1 2).wellFormedWith false = false := by decide
theorem test_well_formed_ldReg_with_parameter : (Instr.ldReg 1 2).wellFormedWith true = true := by decide
theorem test_decode_without_parameter_rejects_8450 : (decodeOpcodeWith false 0x8450).toOption = none := by decide
theorem test_decode_without_parameter_rejects_9120 : (decodeOpcodeWith false 0x9120).toOption = none := by decide

/-! ### Decoding: each constructor's word, digit by digit from 30_encoding.md R73 and R74 -/

theorem test_decode_fixed :
    decodeTableWord 16 0b0000_0000_0000_0000 = some .halt ∧
    decodeTableWord 16 0b0000_0000_1110_0000 = some .cls ∧
    decodeTableWord 16 0b0000_0000_1110_1110 = some .ret := by decide

theorem test_decode_nnn :
    decodeTableWord 16 0b0001_0010_0011_0100 = some (.jp 0x234) ∧
    decodeTableWord 16 0b0010_0011_0000_0001 = some (.call 0x301) ∧
    decodeTableWord 16 0b1010_0010_1111_0000 = some (.ldI 0x2F0) ∧
    decodeTableWord 16 0b1011_1111_1110_1101 = some (.jpV0 0xFED) := by decide

theorem test_decode_xkk :
    decodeTableWord 16 0b0011_0011_0100_0010 = some (.seImm 3 0x42) ∧
    decodeTableWord 16 0b0100_1110_0100_0011 = some (.sneImm 14 0x43) ∧
    decodeTableWord 16 0b0110_1010_0010_1011 = some (.ldImm 10 0x2B) ∧
    decodeTableWord 16 0b0111_0010_0010_0000 = some (.addImm 2 0x20) ∧
    decodeTableWord 16 0b1100_0101_0000_1111 = some (.rnd 5 0x0F) := by decide

theorem test_decode_xy :
    decodeTableWord 16 0b0101_0001_0010_0000 = some (.seReg 1 2) ∧
    decodeTableWord 16 0b1000_0100_0101_0000 = some (.ldReg 4 5) ∧
    decodeTableWord 16 0b1000_0000_0001_0001 = some (.orReg 0 1) ∧
    decodeTableWord 16 0b1000_0010_0001_0010 = some (.andReg 2 1) ∧
    decodeTableWord 16 0b1000_0011_1111_0011 = some (.xorReg 3 15) ∧
    decodeTableWord 16 0b1000_0000_0001_0100 = some (.addReg 0 1) ∧
    decodeTableWord 16 0b1000_0101_0110_0101 = some (.subReg 5 6) ∧
    decodeTableWord 16 0b1000_0111_1000_0111 = some (.subnReg 7 8) ∧
    decodeTableWord 16 0b1001_0001_0010_0000 = some (.sneReg 1 2) := by decide

/-- The y digit of the shifts is ignored (D6). -/
theorem test_decode_shifts :
    decodeTableWord 16 0b1000_0011_0000_0110 = some (.shr 3) ∧
    decodeTableWord 16 0b1000_0011_1010_0110 = some (.shr 3) ∧
    decodeTableWord 16 0b1000_0011_0000_1110 = some (.shl 3) ∧
    decodeTableWord 16 0b1000_0011_1111_1110 = some (.shl 3) := by decide

theorem test_decode_xyn :
    decodeTableWord 16 0b1101_0000_0010_0101 = some (.drw 0 2 5) := by decide

theorem test_decode_x_keys_and_timers :
    decodeTableWord 16 0b1110_0010_1001_1110 = some (.skp 2) ∧
    decodeTableWord 16 0b1110_0010_1010_0001 = some (.sknp 2) ∧
    decodeTableWord 16 0b1111_0001_0000_0111 = some (.ldVxDt 1) ∧
    decodeTableWord 16 0b1111_0011_0000_1010 = some (.ldVxK 3) ∧
    decodeTableWord 16 0b1111_0001_0001_0101 = some (.ldDtVx 1) ∧
    decodeTableWord 16 0b1111_0001_0001_1000 = some (.ldStVx 1) := by decide

theorem test_decode_x_index_and_memory :
    decodeTableWord 16 0b1111_0100_0001_1110 = some (.addI 4) ∧
    decodeTableWord 16 0b1111_1010_0010_1001 = some (.ldF 10) ∧
    decodeTableWord 16 0b1111_0000_0011_0011 = some (.ldB 0) ∧
    decodeTableWord 16 0b1111_0010_0101_0101 = some (.storeRegs 2) ∧
    decodeTableWord 16 0b1111_0010_0110_0101 = some (.loadRegs 2) := by decide

/-- The opcodes of V-F2 to V-F9 are unrecognized. -/
theorem test_decode_rejects :
    [0x0123, 0x00E1, 0x5121, 0x8008, 0x800F, 0x9011, 0xE000, 0xF0FF].map (decodeTableWord 16) = List.replicate 8 none := by decide

theorem test_decode_names_the_rejected_opcode :
    (match decode [0xE0, 0x00, 0x12] with
      | .error e => decide (e = .unrecognizedOpcode 0xE000)
      | .ok _ => false) = true := by decide

theorem test_decode_one_byte_is_too_short :
    (match decode [0x12] with
      | .error e => decide (e = .tooShort)
      | .ok _ => false) = true := by decide

/-- Big-endian: the byte at the lower address is the high byte (R53). -/
theorem test_encode_bytes_big_endian : encodeBytes (.jp 0x234) = [0x12, 0x34] := by decide

/-! ### Assembly: the program P3 of spec/95_test_vectors.md, its text and its bytes -/

/-- P3's instructions. -/
def programP3 : List AsmLine :=
  [.instr (.ldImm 0 0xFE), .instr (.ldI 0x300), .instr (.ldB 0), .instr (.loadRegs 2), .instr (.ldF 1), .instr (.drw 0 1 5),
    .instr .halt]

theorem test_assemble_P3 :
    assemble programP3 = [0x60, 0xFE, 0xA3, 0x00, 0xF0, 0x33, 0xF2, 0x65, 0xF1, 0x29, 0xD0, 0x15, 0x00, 0x00] := by decide

theorem test_text_P3 :
    programP3.map AsmLine.text =
      ["LD V0, 0xFE", "LD I, 0x300", "LD B, V0", "LD V2, [I]", "LD F, V1", "DRW V0, V1, 5", "HALT"] := by decide

/-! ### Fetch and dispatch -/

theorem test_F1_halt :
    (run1 State.reset 0x0000).map (fun t => (t.pc, t.run)) = some (0x202, .halted 0x200) := by decide

theorem test_F2_unimplemented :
    (run1 State.reset 0x0123).map (fun t => (t.pc, t.run)) = some (0x202, .faulted .unimplementedInstruction 0x200) := by decide

theorem test_F10_last_legal_fetch :
    (run1 (State.reset.setPc 0xFFE) 0x6012).map (fun t => (t.getV 0, t.pc, t.run)) = some (0x12, 0x1000, .running) := by decide

theorem test_F11_odd_pc :
    (run1 (State.reset.setPc 0x201) 0x6012).map (fun t => (t.getV 0, t.pc)) = some (0x12, 0x203) := by decide

theorem test_F12_fetch_past_the_end :
    (next? (step (State.reset.setPc 0xFFF))).map (fun t => (t.pc, t.run)) = some (0xFFF, .faulted .outOfBounds 0xFFF) := by decide

theorem test_F13_fetch_beyond_the_end :
    (next? (step (State.reset.setPc 0x1000))).map (fun t => (t.pc, t.run)) = some (0x1000, .faulted .outOfBounds 0x1000) := by decide

theorem test_F14_ended_run_changes_nothing :
    next? (step { State.reset with run := .halted 0x200, pc := 0x202 }) = some { State.reset with run := .halted 0x200, pc := 0x202 } := by
  decide

/-! ### Control flow -/

theorem test_C1_ret :
    (run1 { State.reset with pc := 0x300, sp := 1, stack := State.reset.stack.set 0 0x202 } 0x00EE).map (fun t => (t.sp, t.pc)) =
      some (0, 0x202) := by decide

theorem test_C2_ret_underflow :
    (run1 (State.reset.setPc 0x300) 0x00EE).map (fun t => (t.sp, t.pc, t.run)) =
      some (0, 0x302, .faulted .stackUnderflow 0x300) := by decide

theorem test_C3_jp : (run1 State.reset 0x1234).map (·.pc) = some 0x234 := by decide

theorem test_C6_call :
    (run1 { State.reset with sp := 15 } 0x2300).map (fun t => (t.sp, t.stack[15], t.pc, t.run)) =
      some (16, 0x202, 0x300, .running) := by decide

theorem test_C7_call_overflow :
    (run1 { State.reset with sp := 16 } 0x2300).map (fun t => (t.sp, t.stack, t.pc, t.run)) =
      some (16, State.reset.stack, 0x202, .faulted .stackOverflow 0x200) := by decide

theorem test_C8_se_imm : (run1 (regs [(3, 0x42)]) 0x3342).map (·.pc) = some 0x204 := by decide
theorem test_C9_se_imm : (run1 (regs [(3, 0x41)]) 0x3342).map (·.pc) = some 0x202 := by decide
theorem test_C10_sne_imm : (run1 (regs [(3, 0x41)]) 0x4342).map (·.pc) = some 0x204 := by decide
theorem test_C11_sne_imm : (run1 (regs [(3, 0x42)]) 0x4342).map (·.pc) = some 0x202 := by decide
theorem test_C12_se_reg : (run1 (regs [(1, 7), (2, 7)]) 0x5120).map (·.pc) = some 0x204 := by decide
theorem test_C14_sne_reg : (run1 (regs [(1, 7), (2, 8)]) 0x9120).map (·.pc) = some 0x204 := by decide
theorem test_C15_sne_reg : (run1 (regs [(1, 7)]) 0x9110).map (·.pc) = some 0x202 := by decide
theorem test_C16_jp_v0 : (run1 (regs [(0, 0x10)]) 0xB300).map (·.pc) = some 0x310 := by decide
theorem test_C17_jp_v0_unmasked : (run1 (regs [(0, 0xFF)]) 0xBFFF).map (·.pc) = some 0x10FE := by decide

/-! ### Arithmetic and logic: the destination, the flag -/

theorem test_A1_ld_imm : (run1 State.reset 0x6A2B).map (·.getV 10) = some 0x2B := by decide

theorem test_A2_add_imm : (run1 (regs [(2, 0xF0), (15, 7)]) 0x7220).map (fun t => (t.getV 2, t.getV vf)) = some (0x10, 7) := by decide
theorem test_A4_add_imm_vf : (run1 (regs [(15, 0xFF)]) 0x7F01).map (·.getV vf) = some 0 := by decide
theorem test_A5_ld_reg : (run1 (regs [(5, 0x33)]) 0x8450).map (fun t => (t.getV 4, t.getV 5)) = some (0x33, 0x33) := by decide

theorem test_A6_or :
    (run1 (regs [(0, 0x0C), (1, 0x0A), (15, 5)]) 0x8011).map (fun t => (t.getV 0, t.getV vf)) = some (0x0E, 5) := by decide

theorem test_A7_and :
    (run1 (regs [(0, 0x0C), (1, 0x0A), (15, 5)]) 0x8012).map (fun t => (t.getV 0, t.getV vf)) = some (0x08, 5) := by decide

theorem test_A8_xor :
    (run1 (regs [(0, 0x0C), (1, 0x0A), (15, 5)]) 0x8013).map (fun t => (t.getV 0, t.getV vf)) = some (0x06, 5) := by decide

theorem test_A12_add_reg_carry :
    (run1 (regs [(0, 0xFF), (1, 0xFF)]) 0x8014).map (fun t => (t.getV 0, t.getV vf)) = some (0xFE, 1) := by decide

theorem test_A15_add_reg_y_is_vf :
    (run1 (regs [(0, 0x10), (15, 1)]) 0x80F4).map (fun t => (t.getV 0, t.getV vf)) = some (0x11, 0) := by decide

theorem test_A16_sub_borrow :
    (run1 (regs [(0, 3), (1, 5)]) 0x8015).map (fun t => (t.getV 0, t.getV vf)) = some (0xFE, 0) := by decide

theorem test_A20_sub_vf_is_the_flag : (run1 (regs [(15, 5), (1, 3)]) 0x8F15).map (·.getV vf) = some 1 := by decide

theorem test_A22_subn_borrow :
    (run1 (regs [(0, 5), (1, 3)]) 0x8017).map (fun t => (t.getV 0, t.getV vf)) = some (0xFE, 0) := by decide

theorem test_A23_subn_equal :
    (run1 (regs [(0, 4), (1, 4)]) 0x8017).map (fun t => (t.getV 0, t.getV vf)) = some (0, 1) := by decide

theorem test_A27_shr_ignores_y :
    (run1 (regs [(3, 4), (10, 0xFF)]) 0x83A6).map (fun t => (t.getV 3, t.getV 10, t.getV vf)) = some (2, 0xFF, 0) := by decide

theorem test_A28_shr_vf : (run1 (regs [(15, 3)]) 0x8F06).map (·.getV vf) = some 0 := by decide

theorem test_A29_shl : (run1 (regs [(3, 0xC1)]) 0x830E).map (fun t => (t.getV 3, t.getV vf)) = some (0x82, 1) := by decide

theorem test_A32_shl_vf : (run1 (regs [(15, 0x81)]) 0x8F0E).map (·.getV vf) = some 2 := by decide

/-- V-A33 under the two other readings of `SHIFT_VF_DEST`. -/
theorem test_A33_other_readings :
    ((regs [(15, 0x7F)]).shiftRegister .snapshotResult vf shiftedOutLeft shiftLeftByte).getV vf = 0xFE ∧
    ((regs [(15, 0x7F)]).shiftRegister .flagLast vf shiftedOutLeft shiftLeftByte).getV vf = 0 := by decide

/-- V-A35: mask 0 gives 0 whatever is drawn; the draw is counted. -/
theorem test_A35_rnd_mask_zero (s : State) :
    ∃ t, exec (.rnd 5 0) s = .next t ∧ t.getV 5 = 0 ∧ t.draws = s.draws + 1 := by
  refine ⟨_, rfl, ?_, rfl⟩
  show ((s.v.set 5 (s.randomByte &&& 0)))[5] = 0
  simp

/-! ### Graphics -/

/-- V-G1's screen: cells (0,0) and (31,63) set. -/
def litCorners : State :=
  { State.reset with fb := (State.reset.fb.set 0 1).set 31 0x8000000000000000 }

theorem test_G1_cls :
    (run1 litCorners 0x00E0).map (fun t => (t.fb, t.redraw)) = some (State.reset.fb, true) := by decide

/-- V-G2's state: a row of eight pixels at column 63, row 0. -/
def drawAt63 : State :=
  poke ((regs [(0, 63)]).setI 0x300) 0x300 [0xFF]

theorem test_G2_drw_wraps_columns :
    (run1 drawAt63 0xD011).map (fun t => (row t 0, t.getV vf, t.redraw)) = some (0x800000000000007F, 0, true) := by decide

theorem test_G8_drw_out_of_bounds :
    (run1 (State.reset.setI 0xFFF) 0xD012).map (fun t => (t.fb, t.redraw, t.run)) =
      some (State.reset.fb, false, .faulted .outOfBounds 0x200) := by decide

/-! ### Keys and timers -/

theorem test_K1_skp : (run1 ((regs [(2, 7)]).setKeys (press [7])) 0xE29E).map (·.pc) = some 0x204 := by decide

theorem test_K5_skp_out_of_range :
    (run1 (regs [(2, 0x10)]) 0xE29E).map (fun t => (t.pc, t.run)) = some (0x202, .faulted .outOfBounds 0x200) := by decide

theorem test_K3_sknp : (run1 (regs [(2, 7)]) 0xE2A1).map (·.pc) = some 0x204 := by decide
theorem test_K4_sknp : (run1 ((regs [(2, 7)]).setKeys (press [7])) 0xE2A1).map (·.pc) = some 0x202 := by decide

theorem test_K6_key_wait :
    (run1 (State.reset.setPc 0x210) 0xF30A).map (fun t => (t.getV 3, t.pc)) = some (0, 0x210) := by decide

theorem test_K8_lowest_key :
    (run1 ((State.reset.setPc 0x210).setKeys (press [2, 9, 14])) 0xF30A).map (fun t => (t.getV 3, t.pc)) = some (2, 0x212) := by decide

theorem test_T1_ld_vx_dt : (run1 (State.reset.setDt 0x3C) 0xF107).map (·.getV 1) = some 0x3C := by decide
theorem test_T2_ld_dt_vx : (run1 (regs [(1, 0x3C)]) 0xF115).map (·.dt) = some 0x3C := by decide
theorem test_T3_ld_st_vx : (run1 (regs [(1, 5)]) 0xF118).map (·.st) = some 5 := by decide

theorem test_T4_tick_floors :
    ((State.reset.setSt 5).tickTimers.dt, (State.reset.setSt 5).tickTimers.st) = (0, 4) := by decide

theorem test_T7_tick_after_the_end :
    ({ State.reset with dt := 5, run := .halted 0x200 } : State).tickTimers.dt = 5 := by decide

/-! ### Index register and memory -/

theorem test_I1_ld_i : (run1 State.reset 0xA2F0).map (·.i) = some 0x2F0 := by decide

theorem test_I3_add_i_wraps : (run1 ((regs [(4, 0x20)]).setI 0xFFF0) 0xF41E).map (·.i) = some 0x10 := by decide

theorem test_I4_add_i_past_memory :
    (run1 ((regs [(4, 1)]).setI 0xFFF) 0xF41E).map (fun t => (t.i, t.run)) = some (0x1000, .running) := by decide

theorem test_I5_ld_f : (run1 (regs [(10, 0x0A)]) 0xFA29).map (·.i) = some 0x82 := by decide
theorem test_I9_ld_f_unmasked : (run1 (regs [(0, 0xFF)]) 0xF029).map (·.i) = some 0x54B := by decide

theorem test_M5_ld_b_at_the_end :
    (run1 ((regs [(0, 128)]).setI 0xFFD) 0xF033).map (fun t => (t.mem.readBytes 0xFFD 3, t.run)) =
      some ([1, 2, 8], .running) := by decide

theorem test_M6_ld_b_out_of_bounds :
    (run1 (poke ((regs [(0, 128)]).setI 0xFFE) 0xFFE [0xAA, 0xBB]) 0xF033).map (fun t => (t.mem.readBytes 0xFFE 2, t.run)) =
      some ([0xAA, 0xBB], .faulted .outOfBounds 0x200) := by decide

theorem test_M7_store_regs :
    (run1 ((regs [(0, 1), (1, 2), (2, 3), (3, 4)]).setI 0x300) 0xF255).map (fun t => (t.mem.readBytes 0x300 4, t.i)) =
      some ([1, 2, 3, 0], 0x300) := by decide

theorem test_M10_store_regs_out_of_bounds :
    (run1 ((regs [(0, 1)]).setI 0xFF1) 0xFF55).map (fun t => (t.mem.read 0xFF1, t.run)) =
      some (0, .faulted .outOfBounds 0x200) := by decide

theorem test_M11_load_regs :
    (run1 (poke ((regs [(3, 9)]).setI 0x300) 0x300 [2, 5, 5, 7]) 0xF265).map
      (fun t => ([t.getV 0, t.getV 1, t.getV 2, t.getV 3], t.i)) = some ([2, 5, 5, 9], 0x300) := by decide

theorem test_M13_load_regs_out_of_bounds :
    (run1 ((regs [(3, 0x99)]).setI 0xFFD) 0xF365).map (fun t => (t.getV 3, t.run)) =
      some (0x99, .faulted .outOfBounds 0x200) := by decide

/-! ### Memory and the host's operations -/

/-- Writing what an unlisted address reads as removes its entry (log 12). -/
theorem test_memory_write_back_removes_the_entry :
    Memory.write (Memory.write [] 0x50 0xAA) 0x50 0xF0 = [] := by decide

theorem test_memory_is_kept_in_order :
    Memory.write (Memory.write (Memory.write [] 0x300 1) 0x200 2) 0x250 3 = [(0x200, 2), (0x250, 3), (0x300, 1)] := by decide

theorem test_H1_clear_redraw : ({ State.reset with redraw := true } : State).clearRedraw = State.reset := by decide

theorem test_H2_set_keys :
    ((State.reset.setKeys (press [7])).setKeys (press [3])).keys.toList =
      [false, false, false, true, false, false, false, false, false, false, false, false, false, false, false, false] := by decide

theorem test_H5_load_three_bytes :
    (next? (boot [0x12, 0x34, 0x56])).map (fun t => t.mem.readBytes 0x200 4) = some [0x12, 0x34, 0x56, 0] := by decide

theorem test_peek_last_address : State.reset.peek 0xFFF = .next 0 := rfl
theorem test_peek_no_such_address : State.reset.peek 0x1000 = .fault (.noSuchAddress 0x1000) := rfl

theorem test_reset_memory_is_canonical : State.reset.mem.wf := by decide

/-! ### Witnesses: for each statement of Obligations.lean with hypotheses, a state and operands that meet them, clause by clause at
the boundary values -/

theorem witness_DecodeOfEncodeIsTheInstruction :
    (Instr.drw 15 0 15).wellFormed = true ∧ (Instr.ldReg 4 5).wellFormed = true := by decide

theorem witness_RecognizedOpcode_shift : decodeOpcode 0x83A6 = .ok (.shr 3) ∧ decodeOpcode 0x83FE = .ok (.shl 3) := by
  constructor <;> rfl

theorem witness_RecognizedOpcode_other : decodeOpcode 0x1234 = .ok (.jp 0x234) := rfl

theorem witness_UnrecognizedOpcodes_each_set :
    decodeOpcode 0x0FFF = .error (.unrecognizedOpcode 0x0FFF) ∧ decodeOpcode 0x5FFF = .error (.unrecognizedOpcode 0x5FFF) ∧
    decodeOpcode 0x8008 = .error (.unrecognizedOpcode 0x8008) ∧ decodeOpcode 0x9001 = .error (.unrecognizedOpcode 0x9001) ∧
    decodeOpcode 0xE09F = .error (.unrecognizedOpcode 0xE09F) ∧ decodeOpcode 0xF066 = .error (.unrecognizedOpcode 0xF066) := by
  refine ⟨rfl, rfl, rfl, rfl, rfl, rfl⟩

/-- JP 0x234 at the last address an instruction can be fetched from. -/
def jumpAtLastFetch : State :=
  poke (State.reset.setPc 0xFFE) 0xFFE [0x12, 0x34]

theorem witness_StepRunsTheDecodedInstruction :
    jumpAtLastFetch.run = .running ∧ jumpAtLastFetch.pc.toNat + 1 = 0xFFF ∧
      decodeOpcode jumpAtLastFetch.opcodeAtPc = .ok (.jp 0x234) := by
  refine ⟨by decide, by decide, rfl⟩

/-- A halted and a faulted state. -/
def halted : State := { State.reset with run := .halted 0x200 }
def faulted : State := { State.reset with run := .faulted .outOfBounds 0x200 }

theorem witness_StepOfEndedRunChangesNothing_halted : halted.successfulEnd := ⟨0x200, rfl⟩
theorem witness_StepOfEndedRunChangesNothing_faulted : faulted.failedEnd := ⟨.outOfBounds, 0x200, rfl⟩

theorem witness_FetchPastLastAddress :
    (State.reset.setPc 0xFFF).run = .running ∧ 0xFFF ≤ (State.reset.setPc 0xFFF).pc.toNat ∧
      (State.reset.setPc 0x10FE).run = .running ∧ 0xFFF ≤ (State.reset.setPc 0x10FE).pc.toNat := by decide

/-- E000 at 0xFFE. -/
def unrecognizedAtLastFetch : State :=
  poke (State.reset.setPc 0xFFE) 0xFFE [0xE0, 0x00]

theorem witness_UnrecognizedOpcodeRaisesUnimplemented :
    unrecognizedAtLastFetch.run = .running ∧ unrecognizedAtLastFetch.pc.toNat + 1 ≤ 0xFFF ∧
      decodeOpcode unrecognizedAtLastFetch.opcodeAtPc = .error (.unrecognizedOpcode 0xE000) := by
  refine ⟨by decide, by decide, rfl⟩

/-- A stack pointer, empty stack slots. -/
def withSp (n : Fin 17) : State := { State.reset with sp := n }

theorem witness_CallPushesPcAndJumps_room : (withSp 0).sp.val < 16 ∧ (withSp 15).sp.val < 16 := by decide
theorem witness_CallPushesPcAndJumps_full : (withSp 16).sp.val = 16 := by decide
theorem witness_ReturnPopsIntoPc_pops : 0 < (withSp 1).sp.val ∧ 0 < (withSp 16).sp.val := by decide
theorem witness_ReturnPopsIntoPc_empty : (withSp 0).sp.val = 0 := by decide
theorem witness_CallThenReturn : (withSp 15).sp.val < 16 := by decide

theorem witness_AddRegisters_clauses :
    (0 : RegIndex) ≠ vf ∧ ((regs [(0, 0xFF), (1, 1)]).getV 0).toNat + ((regs [(0, 0xFF), (1, 1)]).getV 1).toNat = 256 ∧
      ((regs [(0, 0xFE), (1, 1)]).getV 0).toNat + ((regs [(0, 0xFE), (1, 1)]).getV 1).toNat = 255 := by decide

theorem witness_Subtract_clauses :
    (0 : RegIndex) ≠ vf ∧ ((regs [(0, 0), (1, 1)]).getV 0).toNat < ((regs [(0, 0), (1, 1)]).getV 1).toNat ∧
      ¬ ((regs [(0, 1), (1, 1)]).getV 0).toNat < ((regs [(0, 1), (1, 1)]).getV 1).toNat := by decide

theorem witness_Shifts_not_vf : (14 : RegIndex) ≠ vf ∧ (0 : RegIndex) ≠ vf := by decide

theorem witness_RandomIsOneDrawMasked_zero_mask : decodeOpcode 0xC500 = .ok (.rnd 5 0) := rfl

theorem witness_ClearScreen_corner : litCorners.readCell 0 0 = true ∧ litCorners.readCell 31 63 = true := by decide

theorem witness_Draw_in_bounds :
    (0 : Fin 16).val = 0 ∧ (State.reset.setI 0xFFF).i.toNat + (1 : Fin 16).val - 1 ≤ 0xFFF ∧
      (State.reset.setI 0xFF1).i.toNat + (15 : Fin 16).val - 1 ≤ 0xFFF := by decide

theorem witness_Draw_past_memory : 0 < (2 : Fin 16).val ∧ 0xFFF < (State.reset.setI 0xFFF).i.toNat + (2 : Fin 16).val - 1 := by decide

theorem reset_readCell (row col : Nat) : State.reset.readCell row col = false :=
  Framebuffer.cell_clear _

theorem witness_Draw_no_collision : ¬ spriteCollides drawAt63 0 1 1 := by
  rintro ⟨row, col, -, -, -, h⟩
  have h' : drawAt63.readCell row col = false := reset_readCell row col
  simp [h'] at h

/-- V-G3's state: V-G2's screen is lit. -/
def drawOnLit : State :=
  { drawAt63 with fb := State.reset.fb.set 0 0x800000000000007F }

theorem witness_Draw_collision : spriteCollides drawOnLit 0 1 1 :=
  ⟨0, 63, by decide, by decide, ⟨0, by decide, 0, by decide, by decide, by decide, by decide⟩, by decide⟩

theorem witness_DrawingTwice_zero_background :
    drawAt63.i.toNat + (1 : Fin 16).val - 1 ≤ 0xFFF ∧
      ∀ row col, row < 32 → col < 64 → spriteCovers drawAt63 0 1 1 row col → drawAt63.readCell row col = false :=
  ⟨by decide, fun row col _ _ _ => reset_readCell row col⟩

/-- The state the second draw starts from: the first draw's framebuffer, all else as it was. -/
theorem witness_DrawingTwice_second_state (t : State) :
    ({ drawAt63 with fb := t.fb } : State).fb = t.fb ∧ ({ drawAt63 with fb := t.fb } : State).i = drawAt63.i ∧
      (∀ a, ({ drawAt63 with fb := t.fb } : State).mem.read a = drawAt63.mem.read a) ∧
      ({ drawAt63 with fb := t.fb } : State).getV 0 = drawAt63.getV 0 ∧
      ({ drawAt63 with fb := t.fb } : State).getV 1 = drawAt63.getV 1 :=
  ⟨rfl, rfl, fun _ => rfl, rfl, rfl⟩

theorem witness_SkipsOnKeyState_index :
    ((regs [(2, 15)]).getV 2).toNat = (15 : Fin 16).val ∧ ((regs [(2, 0)]).getV 2).toNat = (0 : Fin 16).val ∧
      (State.reset.setKeys (press [15])).keys[15] = true ∧ (State.reset.setKeys (press [15])).keys[0] = false := by decide

theorem witness_SkipsOnKeyState_out_of_range : 15 < ((regs [(2, 16)]).getV 2).toNat := by decide

/-- LD V3, K at 0xFFE, with some keys pressed. -/
def waiting (ks : List Nat) : State :=
  (poke (State.reset.setPc 0xFFE) 0xFFE [0xF3, 0x0A]).setKeys (press ks)

theorem witness_AwaitKey_lowest :
    (waiting [2, 9, 15]).keys[2] = true ∧ ∀ j : Fin 16, j < 2 → (waiting [2, 9, 15]).keys[j.val] = false := by decide

theorem witness_AwaitKey_none : ∀ k : Fin 16, (waiting []).keys[k.val] = false := by decide

theorem witness_AwaitKeyRepeats_at_the_wait :
    (waiting []).run = .running ∧ (waiting []).pc.toNat + 1 ≤ 0xFFF ∧
      decodeOpcode (waiting []).opcodeAtPc = .ok (.ldVxK 3) := by
  refine ⟨by decide, by decide, rfl⟩

theorem witness_AwaitKeyRepeats_one_key :
    (waiting [15]).run = .running ∧ (waiting [15]).pc.toNat + 1 ≤ 0xFFF ∧
      decodeOpcode (waiting [15]).opcodeAtPc = .ok (.ldVxK 3) ∧ (waiting [15]).keys[15] = true ∧
      ∀ j : Fin 16, j ≠ 15 → (waiting [15]).keys[j.val] = false := by
  refine ⟨by decide, by decide, rfl, by decide, by decide⟩

theorem witness_TickLowersEachTimerToZero :
    (State.reset.setDt 1).run = .running ∧ State.reset.dt = 0 ∧ State.reset.run = .running ∧ halted.successfulEnd ∧ faulted.failedEnd :=
  ⟨rfl, rfl, rfl, ⟨0x200, rfl⟩, ⟨.outOfBounds, 0x200, rfl⟩⟩

/-- REDRAW is set before an operation that is not the clearing one. -/
theorem witness_OnlyClearRedraw :
    HostOp.tickTimers ≠ .clearRedraw ∧ ∃ s t : State, hostOp .tickTimers s = .next t ∧ s.redraw = true :=
  ⟨by decide, _, _, rfl, (rfl : ({ State.reset with redraw := true } : State).redraw = true)⟩

theorem witness_StoreDecimal_bounds :
    (State.reset.setI 0xFFD).i.toNat + 2 ≤ 0xFFF ∧ 0xFFF < (State.reset.setI 0xFFE).i.toNat + 2 := by decide

theorem witness_StoreRegisters_bounds :
    (State.reset.setI 0xFF0).i.toNat + (15 : RegIndex).val ≤ 0xFFF ∧
      0xFFF < (State.reset.setI 0xFF1).i.toNat + (15 : RegIndex).val ∧
      (State.reset.setI 0xFFF).i.toNat + (0 : RegIndex).val ≤ 0xFFF := by decide

theorem witness_LoadRegisters_bounds :
    (State.reset.setI 0xFF0).i.toNat + (15 : RegIndex).val ≤ 0xFFF ∧
      0xFFF < (State.reset.setI 0x1000).i.toNat + (0 : RegIndex).val ∧ (14 : RegIndex) < 15 ∧ (14 : RegIndex) ≤ 14 := by decide

/-- I = 0x300, pc at an address. -/
def storingAt (pc : Word) : State :=
  (State.reset.setI 0x300).setPc pc

/-- A block holding both bytes at pc, its last byte and the one after it, its first byte and the one before it, and none. -/
theorem witness_FetchSees_storeRegs :
    faultCondition (.storeRegs 15) (storingAt 0x30E) = none ∧
    (storesByte (.storeRegs 15) (storingAt 0x30E) 0x30E 0 ∧ storesByte (.storeRegs 15) (storingAt 0x30E) 0x30F 0) ∧
    (storesByte (.storeRegs 15) (storingAt 0x30F) 0x30F 0 ∧ ∀ b, ¬ storesByte (.storeRegs 15) (storingAt 0x30F) 0x310 b) ∧
    ((∀ b, ¬ storesByte (.storeRegs 15) (storingAt 0x2FF) 0x2FF b) ∧ storesByte (.storeRegs 15) (storingAt 0x2FF) 0x300 0) := by
  have hi : ∀ pc, (storingAt pc).i.toNat = 0x300 := fun _ => rfl
  refine ⟨by decide, ⟨⟨14, by decide⟩, ⟨15, by decide⟩⟩, ⟨⟨15, by decide⟩, ?_⟩, ?_, ⟨0, by decide⟩⟩
  all_goals rintro b ⟨k, -, h, -⟩; rw [hi] at h; omega

theorem witness_FetchSees_ldB :
    faultCondition (.ldB 0) (storingAt 0x302) = none ∧ storesByte (.ldB 0) (storingAt 0x302) 0x300 0 ∧
    storesByte (.ldB 0) (storingAt 0x302) 0x301 0 ∧ storesByte (.ldB 0) (storingAt 0x302) 0x302 0 ∧
    ∀ b, ¬ storesByte (.ldB 0) (storingAt 0x302) 0x303 b := by
  refine ⟨by decide, .inl ⟨rfl, rfl⟩, .inr (.inl ⟨rfl, rfl⟩), .inr (.inr ⟨rfl, rfl⟩), ?_⟩
  have hi : (storingAt 0x302).i.toNat = 0x300 := rfl
  rintro b (⟨h, -⟩ | ⟨h, -⟩ | ⟨h, -⟩) <;> rw [hi] at h <;> omega

/-- The fetch is the last the machine can make. -/
theorem witness_FetchSees_last_fetch : (storingAt 0xFFE).pc.toNat + 1 ≤ 0xFFF := by decide

theorem witness_EachPieceOfState_v_and_draws :
    (∃ t, exec (.ldImm 15 1) State.reset = .next t ∧ t.getV 15 ≠ State.reset.getV 15) ∧
    ∃ t, exec (.rnd 0 0) State.reset = .next t ∧ t.draws ≠ State.reset.draws :=
  ⟨⟨_, rfl, by decide⟩, _, rfl, by decide⟩

theorem witness_EachPieceOfState_i_and_pc :
    (∃ t, exec (.ldI 0x300) State.reset = .next t ∧ t.i ≠ State.reset.i) ∧
    ∃ t, exec (.jp 0x300) State.reset = .next t ∧ t.pc ≠ State.reset.pc :=
  ⟨⟨_, rfl, by decide⟩, _, rfl, by decide⟩

theorem witness_EachPieceOfState_stack_and_sp :
    ∃ t, exec (.call 0x300) (withSp 15) = .next t ∧ t.stack ≠ (withSp 15).stack ∧ t.sp ≠ (withSp 15).sp :=
  ⟨_, rfl, by decide, by decide⟩

theorem witness_EachPieceOfState_timers :
    (∃ t, exec (.ldDtVx 1) (regs [(1, 5)]) = .next t ∧ t.dt ≠ (regs [(1, 5)]).dt) ∧
    ∃ t, exec (.ldStVx 1) (regs [(1, 5)]) = .next t ∧ t.st ≠ (regs [(1, 5)]).st :=
  ⟨⟨_, rfl, by decide⟩, _, rfl, by decide⟩

theorem witness_EachPieceOfState_memory :
    ∃ t, exec (.storeRegs 1) ((regs [(1, 5)]).setI 0xFFE) = .next t ∧
      t.mem.read 0xFFF ≠ ((regs [(1, 5)]).setI 0xFFE).mem.read 0xFFF :=
  ⟨_, rfl, by decide⟩

theorem witness_EachPieceOfState_screen :
    ∃ t, exec .cls litCorners = .next t ∧ t.fb ≠ litCorners.fb ∧ t.redraw ≠ litCorners.redraw :=
  ⟨_, rfl, by decide, by decide⟩

theorem witness_EachPieceOfState_run :
    (∃ t, exec .halt State.reset = .next t ∧ t.run ≠ State.reset.run) ∧
    ∃ t, exec .ret State.reset = .next t ∧ t.run ≠ State.reset.run :=
  ⟨⟨_, rfl, by decide⟩, _, rfl, by decide⟩

theorem witness_RegistersChange : ∃ t, exec (.ldImm 14 1) State.reset = .next t ∧ t.getV 14 ≠ State.reset.getV 14 :=
  ⟨_, rfl, by decide⟩

theorem witness_InstructionsFault_each_condition :
    faultCondition (.call 0x300) (withSp 16) = some .stackOverflow ∧ faultCondition .ret (withSp 0) = some .stackUnderflow ∧
      faultCondition (.drw 0 1 2) (State.reset.setI 0xFFF) = some .outOfBounds ∧
      faultCondition (.ldB 0) (State.reset.setI 0xFFE) = some .outOfBounds ∧
      faultCondition (.storeRegs 15) (State.reset.setI 0xFF1) = some .outOfBounds ∧
      faultCondition (.loadRegs 0) (State.reset.setI 0x1000) = some .outOfBounds ∧
      faultCondition (.skp 2) (regs [(2, 16)]) = some .outOfBounds ∧
      faultCondition (.sknp 2) (regs [(2, 16)]) = some .outOfBounds := by decide

theorem witness_InstructionsFault_no_condition :
    faultCondition (.drw 0 1 0) (State.reset.setI 0xFFFF) = none ∧ faultCondition (.skp 2) (regs [(2, 15)]) = none := by decide

theorem witness_StepFaultsArePreciseAndFinal_fetch :
    (State.reset.setPc 0xFFF).run = .running ∧
      ∃ t, step (State.reset.setPc 0xFFF) = .next t ∧ t.run = .faulted .outOfBounds 0xFFF :=
  ⟨rfl, _, rfl, rfl⟩

theorem witness_StepFaultsArePreciseAndFinal_dispatch :
    unrecognizedAtLastFetch.run = .running ∧
      ∃ t, step unrecognizedAtLastFetch = .next t ∧ t.run = .faulted .unimplementedInstruction 0xFFE :=
  ⟨rfl, _, rfl, rfl⟩

theorem witness_EndedRunIsFinal : halted.successfulEnd ∧ faulted.failedEnd :=
  ⟨⟨0x200, rfl⟩, ⟨.outOfBounds, 0x200, rfl⟩⟩

theorem witness_Load_fits : (List.replicate 3584 (0xAB : Byte)).length ≤ 3584 := by rw [List.length_replicate]

theorem witness_Load_too_large : 3584 < (List.replicate 3585 (0xAB : Byte)).length := by rw [List.length_replicate]; decide

theorem witness_BootedProgram :
    (List.replicate 3582 (0 : Byte)).length + 2 ≤ 3584 ∧
      decodeOpcode (BitVec.ofNat 16 ((0x12 : Byte).toNat * 256 + (0x34 : Byte).toNat)) = .ok (.jp 0x234) :=
  ⟨by rw [List.length_replicate], rfl⟩

/-- A state with bytes in memory whose next step stores one more: LD [I], V0 at 0x200. -/
def storing : State :=
  poke ((regs [(0, 7)]).setI 0x300) 0x200 [0xF0, 0x55]

theorem witness_StepKeepsMemoryCanonical : MemoryCanonical storing ∧ ∃ t, step storing = .next t ∧ t.mem ≠ storing.mem :=
  ⟨by unfold MemoryCanonical; decide, _, rfl, by decide⟩

/-- pc at the largest value the bound admits, and a full stack of the largest return address. -/
def atTheBound : State :=
  { State.reset with pc := 0x10FE, sp := 16, stack := Vector.replicate 16 0x1000 }

theorem witness_StepKeepsPcAndStackBounded :
    PcAndStackBounded atTheBound ∧ ∃ t, step atTheBound = .next t ∧ t.run = .faulted .outOfBounds 0x10FE :=
  ⟨⟨by decide, by decide⟩, _, rfl, rfl⟩

theorem witness_StepKeepsPcAndStackBounded_last_fetch :
    PcAndStackBounded jumpAtLastFetch ∧ ∃ t, step jumpAtLastFetch = .next t ∧ t.pc = 0x234 :=
  ⟨⟨by decide, by decide⟩, _, rfl, by decide⟩

theorem witness_EveryScheduleFromBoot :
    ∃ s t, boot [0xF0, 0x55] = .next s ∧ runSchedule [.setKeys (press [3]), .step, .tickTimers, .clearRedraw] s = .next t :=
  ⟨_, _, rfl, rfl⟩

/-- Another ST, REDRAW and another stale slot. -/
def hiddenDiffers : State :=
  { withSp 1 with st := 9, redraw := true, stack := (withSp 1).stack.set 1 0x234 }

theorem witness_HiddenState : SameToProgram (withSp 1) hiddenDiffers ∧ hiddenDiffers ≠ withSp 1 :=
  ⟨{ v := rfl, i := rfl, pc := rfl, sp := rfl, slot := fun k hk => by
       obtain rfl : k = 0 := by have h : (withSp 1).sp.val = 1 := rfl; omega
       rfl
     dt := rfl, mem := fun _ => rfl, fb := rfl, keys := rfl, run := rfl, draws := rfl }, by decide⟩

/-- Memories that differ at 0x1000 alone, with I = 0xFFF: a sprite or block byte there would be read or written. -/
theorem witness_BytesOutsideMemory :
    (∀ a, a ≤ 0xFFF → Memory.read [(0x1000, 9)] a = (State.reset.setI 0xFFF).mem.read a) ∧
      Memory.read [(0x1000, 9)] 0x1000 ≠ (State.reset.setI 0xFFF).mem.read 0x1000 := by
  refine ⟨fun a ha => ?_, by decide⟩
  show (if 0x1000 = a then (9 : Byte) else Memory.resetByte a) = Memory.resetByte a
  rw [if_neg (by omega)]

end Sys2Proof.Tests
end

/-! ## Proofs: fetch and dispatch (40_fetch_dispatch.md)

The rules the statements about a step need: the frame of each shared operation, what the pc advance does, and one equation of
`step` for each branch. -/

namespace Sys2Proof.Machine

/-! ### The frame relation -/

/-- A frame may be widened. -/
theorem ChangesOnly.mono {ps qs : List Part} {s t : State} (h : ChangesOnly ps s t) (hsub : ps ⊆ qs) : ChangesOnly qs s t where
  v k hk := h.v k fun hm => hk (hsub hm)
  i hk := h.i fun hm => hk (hsub hm)
  pc hk := h.pc fun hm => hk (hsub hm)
  slot k hk := h.slot k fun hm => hk (hsub hm)
  sp hk := h.sp fun hm => hk (hsub hm)
  dt hk := h.dt fun hm => hk (hsub hm)
  st hk := h.st fun hm => hk (hsub hm)
  byte a hk := h.byte a fun hm => hk (hsub hm)
  fb hk := h.fb fun hm => hk (hsub hm)
  redraw hk := h.redraw fun hm => hk (hsub hm)
  keys hk := h.keys fun hm => hk (hsub hm)
  run hk := h.run fun hm => hk (hsub hm)
  draws hk := h.draws fun hm => hk (hsub hm)

/-- Two changes within one frame make a change within it. -/
theorem ChangesOnly.trans {ps : List Part} {s t u : State} (h : ChangesOnly ps s t) (h' : ChangesOnly ps t u) :
    ChangesOnly ps s u where
  v k hk := (h'.v k hk).trans (h.v k hk)
  i hk := (h'.i hk).trans (h.i hk)
  pc hk := (h'.pc hk).trans (h.pc hk)
  slot k hk := (h'.slot k hk).trans (h.slot k hk)
  sp hk := (h'.sp hk).trans (h.sp hk)
  dt hk := (h'.dt hk).trans (h.dt hk)
  st hk := (h'.st hk).trans (h.st hk)
  byte a hk := (h'.byte a hk).trans (h.byte a hk)
  fb hk := (h'.fb hk).trans (h.fb hk)
  redraw hk := (h'.redraw hk).trans (h.redraw hk)
  keys hk := (h'.keys hk).trans (h.keys hk)
  run hk := (h'.run hk).trans (h.run hk)
  draws hk := (h'.draws hk).trans (h.draws hk)

/-- A write of pc changes pc alone. -/
theorem State.setPc_changesOnly (s : State) (w : Word) : ChangesOnly [.pc] s (s.setPc w) := by
  constructor <;> simp

/-- The advance changes pc alone (R102). -/
theorem State.advance_changesOnly (s : State) : ChangesOnly [.pc] s s.advance :=
  s.setPc_changesOnly (s.pc + 2)

/-- A fault changes RUN alone (R231, R233). -/
theorem State.faultAt_changesOnly (s : State) (k : FaultKind) (a : Word) : ChangesOnly [.run] s (s.faultAt k a) := by
  constructor <;> simp

/-- A fault raised by a handler or by dispatch changes RUN alone (R107). -/
theorem State.raise_changesOnly (s : State) (k : FaultKind) : ChangesOnly [.run] s (s.raise k) :=
  s.faultAt_changesOnly k s.instrAddress

/-- Halting changes RUN alone (R105). -/
theorem State.halt_changesOnly (s : State) : ChangesOnly [.run] s s.halt := by
  constructor <;> simp

/-! ### The advance of pc after a fetch -/

/-- After a successful fetch pc + 2 does not wrap (R102). -/
theorem State.toNat_advance_pc {s : State} (hpc : s.pc.toNat + 1 ≤ 0xFFF) : s.advance.pc.toNat = s.pc.toNat + 2 := by
  have htwo : (2 : Word).toNat = 2 := rfl
  rw [State.advance_pc, BitVec.toNat_add, htwo, Nat.mod_eq_of_lt (by omega)]

/-- A handler recovers from the advanced pc the address its fetch started at (log 2). -/
@[simp] theorem State.instrAddress_advance (s : State) : s.advance.instrAddress = s.pc :=
  BitVec.add_sub_cancel s.pc 2

/-! ### `step`, branch by branch -/

/-- R100, D22: after the end of a run a step answers the same state. -/
theorem step_of_ended {s : State} (h : s.run ≠ .running) : step s = .next s := by
  unfold step
  cases hr : s.run with
  | running => exact absurd hr h
  | halted a => rfl
  | faulted k a => rfl

/-- In bounds, fetch reads the two bytes of the opcode at pc. -/
theorem State.fetch_of_inBounds {s : State} (hpc : s.pc.toNat + 1 ≤ 0xFFF) :
    s.fetch = some [s.mem.read s.pc.toNat, s.mem.read (s.pc.toNat + 1)] := by
  rw [State.fetch_eq, if_pos (by omega)]

/-- R102 to R104: a recognized opcode's instruction executes with pc advanced. -/
theorem step_of_decodeOpcode_ok {s : State} {i : Instr} (hrun : s.run = .running) (hpc : s.pc.toNat + 1 ≤ 0xFFF)
    (hdec : decodeOpcode s.opcodeAtPc = .ok i) : step s = exec i s.advance := by
  rw [State.opcodeAtPc] at hdec
  simp only [step, hrun, State.fetch_of_inBounds hpc, decode, hdec]

/-- R106: an opcode the decoder rejects raises UnimplementedInstruction after the advance. -/
theorem step_of_decodeOpcode_error {s : State} {e : DecodeReject} (hrun : s.run = .running) (hpc : s.pc.toNat + 1 ≤ 0xFFF)
    (hdec : decodeOpcode s.opcodeAtPc = .error e) : step s = .next (s.advance.raise .unimplementedInstruction) := by
  rw [State.opcodeAtPc] at hdec
  simp only [step, hrun, State.fetch_of_inBounds hpc, decode, hdec]

/-! ### The statements -/

/-- Settles O5: the branch of `step` for a recognized opcode, and what the advance does. -/
theorem stepRunsTheDecodedInstruction : Obligations.StepRunsTheDecodedInstruction := by
  intro s i hrun hpc hdec
  exact ⟨step_of_decodeOpcode_ok hrun hpc hdec, State.toNat_advance_pc hpc, s.advance_changesOnly⟩

/-- Settles O6: neither ended run state is Running. -/
theorem stepOfEndedRunChangesNothing : Obligations.StepOfEndedRunChangesNothing := by
  rintro s (⟨a, hhalted⟩ | ⟨k, a, hfaulted⟩)
  · exact step_of_ended (by simp [hhalted])
  · exact step_of_ended (by simp [hfaulted])

/-- Settles O8: the fault is raised in the advanced state, so the frame is the advance's (pc) and the fault's (RUN) together. -/
theorem unrecognizedOpcodeRaisesUnimplemented : Obligations.UnrecognizedOpcodeRaisesUnimplemented := by
  intro s w hrun hpc hdec
  refine ⟨_, step_of_decodeOpcode_error hrun hpc hdec, ?kind, ?pc, ?frame⟩
  case kind => rw [State.raise_run, State.instrAddress_advance]
  case pc => rw [State.raise_pc, State.toNat_advance_pc hpc]
  case frame =>
    have hadv : ChangesOnly [.run, .pc] s s.advance := s.advance_changesOnly.mono (by simp)
    have hraise : ChangesOnly [.run, .pc] s.advance (s.advance.raise .unimplementedInstruction) :=
      (s.advance.raise_changesOnly _).mono (by simp)
    exact hadv.trans hraise

/-- Settles O10: the handler of HALT is `State.halt`, which records pc - 2. -/
theorem haltRecordsItsAddress : Obligations.HaltRecordsItsAddress := by
  refine ⟨by decide, fun s => ?_⟩
  have hexec : exec .halt s = .next s.halt := rfl
  exact ⟨s.halt, hexec, s.halt_run, s.halt_changesOnly⟩

end Sys2Proof.Machine

/-! ## Proofs: control flow (41_control_flow.md)

How an opcode is decoded from its row of the opcode map; what each shared operation of a jump, a skip, a call and a return changes;
one equation of `exec` for each branch of an instruction. -/

namespace Sys2Proof

/-! ### Decoding by a row of the opcode map -/

/-- Two fixed digits that one digit fits are the same. -/
theorem fixed_and_ne_eq_false_of_fits {p p' : PatternDigit} {d : Fin 16} (h : fits p d = true) (h' : fits p' d = true) :
    (p.isSome && p'.isSome && decide (p ≠ p')) = false := by
  cases p with
  | none => rfl
  | some c =>
    cases p' with
    | none => rfl
    | some c' =>
      have hc : d = c := of_decide_eq_true h
      have hc' : d = c' := of_decide_eq_true h'
      simp [← hc, ← hc']

/-- Two rows one opcode matches differ in no fixed digit. -/
theorem OpcodeRow.differ_eq_false_of_matchesFields {r r' : OpcodeRow} {f : Fields} (h : r.matchesFields f = true)
    (h' : r'.matchesFields f = true) : r.differ r' = false := by
  simp only [OpcodeRow.matchesFields, Bool.and_eq_true] at h h'
  obtain ⟨⟨⟨h3, h2⟩, h1⟩, h0⟩ := h
  obtain ⟨⟨⟨h3', h2'⟩, h1'⟩, h0'⟩ := h'
  simp only [OpcodeRow.differ, List.any_cons, List.any_nil, Bool.or_false, fixed_and_ne_eq_false_of_fits h3 h3',
    fixed_and_ne_eq_false_of_fits h2 h2', fixed_and_ne_eq_false_of_fits h1 h1', fixed_and_ne_eq_false_of_fits h0 h0']

/-- At most one row of the opcode map matches an opcode (R104). -/
theorem opcodeTable_matches_unique {has : Bool} {f : Fields} {r r' : OpcodeRow} (hr : r ∈ opcodeTable has)
    (hr' : r' ∈ opcodeTable has) (h : r.matchesFields f = true) (h' : r'.matchesFields f = true) : r = r' := by
  have hdisjoint := List.pairwise_iff_getElem.1 (opcodeTable_disjoint has)
  obtain ⟨i, hi, rfl⟩ := List.getElem_of_mem hr
  obtain ⟨j, hj, rfl⟩ := List.getElem_of_mem hr'
  obtain hlt | rfl | hgt := Nat.lt_trichotomy i j
  · exact absurd (hdisjoint i j hi hj hlt) (by simp [OpcodeRow.differ_eq_false_of_matchesFields h h'])
  · rfl
  · exact absurd (hdisjoint j i hj hi hgt) (by simp [OpcodeRow.differ_eq_false_of_matchesFields h' h])

/-- An opcode that has every fixed digit of a row decodes to that row's instruction (R75, R104). -/
theorem decodeOpcode_of_row {r : OpcodeRow} {w : Opcode} (hrow : r ∈ opcodeTable Config.hasLdRegSneReg)
    (hmatch : r.matchesFields (fieldsOf w) = true) : decodeOpcode w = .ok (r.build (fieldsOf w)) := by
  unfold decodeOpcode decodeOpcodeWith
  cases hfind : (opcodeTable Config.hasLdRegSneReg).find? fun r => r.matchesFields (fieldsOf w) with
  | none => exact absurd hmatch (List.find?_eq_none.1 hfind r hrow)
  | some r' =>
    have hmatch' : r'.matchesFields (fieldsOf w) = true :=
      List.find?_some (p := fun r : OpcodeRow => r.matchesFields (fieldsOf w)) hfind
    rw [opcodeTable_matches_unique hrow (List.mem_of_find?_eq_some hfind) hmatch hmatch']

/-- The rows 1nnn, 2nnn, Annn and Bnnn. -/
theorem decodeOpcode_packNnn {op : Fin 16} {mk : Addr12 → Instr} (nnn : Addr12)
    (hrow : ⟨some op, none, none, none, fun f => mk f.nnn⟩ ∈ opcodeTable Config.hasLdRegSneReg) :
    decodeOpcode (packNnn op nnn) = .ok (mk nnn) := by
  obtain ⟨hop, hnnn⟩ := fieldsOf_packNnn op nnn
  have hdec := decodeOpcode_of_row (w := packNnn op nnn) hrow (by simp [OpcodeRow.matchesFields, fits, hop])
  simpa only [hnnn] using hdec

/-- The rows 3xkk, 4xkk, 6xkk, 7xkk and Cxkk. -/
theorem decodeOpcode_packKk {op : Fin 16} {mk : RegIndex → Byte → Instr} (x : RegIndex) (kk : Byte)
    (hrow : ⟨some op, none, none, none, fun f => mk f.x f.kk⟩ ∈ opcodeTable Config.hasLdRegSneReg) :
    decodeOpcode (packKk op x kk) = .ok (mk x kk) := by
  obtain ⟨hop, hx, hkk⟩ := fieldsOf_packKk op x kk
  have hdec := decodeOpcode_of_row (w := packKk op x kk) hrow (by simp [OpcodeRow.matchesFields, fits, hop])
  simpa only [hx, hkk] using hdec

theorem decodeOpcode_jp (nnn : Addr12) : decodeOpcode (packNnn 0x1 nnn) = .ok (.jp nnn) :=
  decodeOpcode_packNnn nnn (by simp [opcodeTable, opcodeRows0to7])

theorem decodeOpcode_call (nnn : Addr12) : decodeOpcode (packNnn 0x2 nnn) = .ok (.call nnn) :=
  decodeOpcode_packNnn nnn (by simp [opcodeTable, opcodeRows0to7])

theorem decodeOpcode_jpV0 (nnn : Addr12) : decodeOpcode (packNnn 0xB nnn) = .ok (.jpV0 nnn) :=
  decodeOpcode_packNnn nnn (by simp [opcodeTable, opcodeRowsAtoE])

theorem decodeOpcode_seImm (x : RegIndex) (kk : Byte) : decodeOpcode (packKk 0x3 x kk) = .ok (.seImm x kk) :=
  decodeOpcode_packKk x kk (by simp [opcodeTable, opcodeRows0to7])

theorem decodeOpcode_sneImm (x : RegIndex) (kk : Byte) : decodeOpcode (packKk 0x4 x kk) = .ok (.sneImm x kk) :=
  decodeOpcode_packKk x kk (by simp [opcodeTable, opcodeRows0to7])

end Sys2Proof

namespace Sys2Proof.Machine

/-! ### What jumps, skips, calls and returns change -/

@[simp] theorem toNat_zextAddr (nnn : Addr12) : (zextAddr nnn).toNat = nnn.toNat :=
  BitVec.toNat_setWidth_of_le (by decide)

@[simp] theorem toNat_zextByte (b : Byte) : (zextByte b).toNat = b.toNat :=
  BitVec.toNat_setWidth_of_le (by decide)

/-- The sum of JP V0, at most 0xFF + 0xFFF, does not wrap (D31). -/
theorem toNat_zextByte_add_zextAddr (b : Byte) (nnn : Addr12) : (zextByte b + zextAddr nnn).toNat = b.toNat + nnn.toNat := by
  have hb : b.toNat < 256 := b.isLt
  have hnnn : nnn.toNat < 4096 := nnn.isLt
  rw [BitVec.toNat_add, toNat_zextByte, toNat_zextAddr, Nat.mod_eq_of_lt (by omega)]

/-- A skip changes pc alone, whether it is taken or not. -/
theorem State.skipIf_changesOnly (s : State) (c : Bool) : ChangesOnly [.pc] s (s.skipIf c) := by
  rw [State.skipIf_eq]
  exact s.setPc_changesOnly _

/-- A push changes the slot at SP, and SP (R122). -/
theorem State.pushReturn_changesOnly (s : State) (h : s.sp.val < Config.stackDepth) :
    ChangesOnly [.slot s.sp.val, .sp] s (s.pushReturn h) := by
  constructor
  case slot =>
    intro k hk
    have hne : s.sp.val ≠ k := fun he => hk (by simp [he])
    rw [State.pushReturn_stack, Vector.getElem?_set_ne h hne]
  all_goals simp

/-- The slot a push wrote holds pc (R122). -/
theorem State.pushReturn_getElem?_sp (s : State) (h : s.sp.val < Config.stackDepth) :
    (s.pushReturn h).stack[s.sp.val]? = some s.pc := by
  rw [State.pushReturn_stack, Vector.getElem?_set_self]

/-- A pop changes SP and pc; every slot keeps its value (R120, D33). -/
theorem State.popReturn_changesOnly (s : State) (h : 0 < s.sp.val) : ChangesOnly [.sp, .pc] s (s.popReturn h) := by
  constructor <;> simp

/-- The slot a pop takes is the one the new SP points at (R120). -/
theorem State.getElem?_popReturn_sp (s : State) (h : 0 < s.sp.val) :
    s.stack[(s.popReturn h).sp.val]? = some (s.popReturn h).pc := by
  rw [State.popReturn_pc, State.popReturn_sp, Vector.getElem?_eq_getElem]

/-! ### `exec`, branch by branch -/

/-- CALL with room on the stack: a push, then a write of pc (R122). -/
theorem exec_call_of_room {s : State} (nnn : Addr12) (h : s.sp.val < Config.stackDepth) :
    exec (.call nnn) s = .next ((s.pushReturn h).setPc (zextAddr nnn)) :=
  congrArg _ (dif_pos h)

/-- CALL with SP = 16 (R122, D9). -/
theorem exec_call_of_full {s : State} (nnn : Addr12) (h : s.sp.val = Config.stackDepth) :
    exec (.call nnn) s = .next (s.raise .stackOverflow) :=
  congrArg _ (dif_neg h.not_lt)

/-- RET with SP > 0 (R120). -/
theorem exec_ret_of_pos {s : State} (h : 0 < s.sp.val) : exec .ret s = .next (s.popReturn h) :=
  congrArg _ (dif_pos h)

/-- RET with SP = 0 (R120, D9). -/
theorem exec_ret_of_empty {s : State} (h : s.sp.val = 0) : exec .ret s = .next (s.raise .stackUnderflow) :=
  congrArg _ (dif_neg h.not_gt)

/-! ### The statements -/

/-- Settles O11: the handler of JP is one write of pc. -/
theorem jumpSetsPcToTheAddress : Obligations.JumpSetsPcToTheAddress := by
  intro nnn s
  have hexec : exec (.jp nnn) s = .next (s.setPc (zextAddr nnn)) := rfl
  exact ⟨decodeOpcode_jp nnn, _, hexec, toNat_zextAddr nnn, s.setPc_changesOnly _⟩

/-- Settles O12: with room the handler is a push and then a write of pc, so the frame is theirs together; with SP = 16 it is the
fault alone. -/
theorem callPushesPcAndJumps : Obligations.CallPushesPcAndJumps := by
  intro nnn s
  refine ⟨decodeOpcode_call nnn, fun hroom => ?room, fun hfull => ?full⟩
  case room =>
    refine ⟨_, exec_call_of_room nnn hroom, s.pushReturn_getElem?_sp hroom, rfl, toNat_zextAddr nnn, ?_⟩
    have hpush : ChangesOnly [.slot s.sp.val, .sp, .pc] s (s.pushReturn hroom) :=
      (s.pushReturn_changesOnly hroom).mono (by simp)
    have hjump : ChangesOnly [.slot s.sp.val, .sp, .pc] (s.pushReturn hroom) ((s.pushReturn hroom).setPc (zextAddr nnn)) :=
      ((s.pushReturn hroom).setPc_changesOnly _).mono (by simp)
    exact hpush.trans hjump
  case full =>
    exact ⟨_, exec_call_of_full nnn hfull, s.raise_run _, s.raise_changesOnly _⟩

/-- Settles O13: with SP > 0 the handler is the pop, with SP = 0 the fault alone. -/
theorem returnPopsIntoPc : Obligations.ReturnPopsIntoPc := by
  refine ⟨by decide, fun s => ⟨fun hpos => ?pops, fun hempty => ?underflow⟩⟩
  case pops =>
    exact ⟨_, exec_ret_of_pos hpos, s.popReturn_sp hpos, s.getElem?_popReturn_sp hpos, s.popReturn_changesOnly hpos⟩
  case underflow =>
    exact ⟨_, exec_ret_of_empty hempty, s.raise_run _, s.raise_changesOnly _⟩

/-- Settles O15: both handlers are a conditional skip, on Vx = kk and on its negation. -/
theorem skipsOnComparisonWithImmediate : Obligations.SkipsOnComparisonWithImmediate := by
  intro x kk s
  have hse : exec (.seImm x kk) s = .next (s.skipIf (decide (s.getV x = kk))) := rfl
  have hsne : exec (.sneImm x kk) s = .next (s.skipIf (decide (s.getV x ≠ kk))) := rfl
  refine ⟨decodeOpcode_seImm x kk, decodeOpcode_sneImm x kk, ⟨_, hse, ?equal, s.skipIf_changesOnly _⟩,
    ⟨_, hsne, ?different, s.skipIf_changesOnly _⟩⟩
  case equal => simp only [State.skipIf_pc, decide_eq_true_eq]
  case different => simp only [State.skipIf_pc, decide_eq_true_eq, ite_not]

/-- Settles O18: the handler of JP V0 is one write of pc, with a sum that fits in 16 bits. -/
theorem jumpWithOffsetAddsV0Unmasked : Obligations.JumpWithOffsetAddsV0Unmasked := by
  intro nnn s
  have hexec : exec (.jpV0 nnn) s = .next (s.setPc (zextByte (s.getV 0) + zextAddr nnn)) := rfl
  exact ⟨decodeOpcode_jpV0 nnn, _, hexec, toNat_zextByte_add_zextAddr _ nnn, s.setPc_changesOnly _⟩

end Sys2Proof.Machine

/-! ## Proofs: arithmetic and logic (42_arithmetic.md)

How the opcodes with two register fields are decoded; what a register write changes, alone or with the flag written last in VF;
the results and flags of the arithmetic as facts about natural numbers. -/

namespace Sys2Proof

/-! ### Decoding the opcodes with two register fields -/

/-- An opcode written as its fixed digits plus the x and y digits is the packing of its four digits. -/
theorem ofNat_eq_packDigits {op n : Fin 16} {w : Nat} (x y : RegIndex) (hw : w = op.val * 0x1000 + n.val) :
    BitVec.ofNat 16 (w + x.val * 0x100 + y.val * 0x10) = packDigits op x y n := by
  rw [packDigits, hw]
  congr 1
  omega

/-- The rows 5xy0, 9xy0, and those of family 8 that read both registers. -/
theorem decodeOpcode_packDigits {op n : Fin 16} {mk : RegIndex → RegIndex → Instr} (x y : RegIndex)
    (hrow : ⟨some op, none, none, some n, fun f => mk f.x f.y⟩ ∈ opcodeTable Config.hasLdRegSneReg) :
    decodeOpcode (packDigits op x y n) = .ok (mk x y) := by
  obtain ⟨hop, hx, hy, hn⟩ := fieldsOf_packDigits op x y n
  have hdec := decodeOpcode_of_row (w := packDigits op x y n) hrow (by simp [OpcodeRow.matchesFields, fits, hop, hn])
  simpa only [hx, hy] using hdec

/-- The row 8xyn of an instruction that reads both registers, `w` being 0x800n. -/
theorem decodeOpcode_8xyn {n : Fin 16} {w : Nat} {mk : RegIndex → RegIndex → Instr} (x y : RegIndex) (hw : w = 0x8000 + n.val)
    (hrow : ⟨some 0x8, none, none, some n, fun f => mk f.x f.y⟩ ∈ opcodeRows8) :
    decodeOpcode (BitVec.ofNat 16 (w + x.val * 0x100 + y.val * 0x10)) = .ok (mk x y) := by
  rw [ofNat_eq_packDigits (op := 0x8) x y hw]
  exact decodeOpcode_packDigits x y (by simp [opcodeTable, hrow])

end Sys2Proof

namespace Sys2Proof.Machine

/-! ### What register writes change -/

/-- A write of a register changes that register alone. -/
theorem State.setV_changesOnly (s : State) (x : RegIndex) (b : Byte) : ChangesOnly [.v x] s (s.setV x b) := by
  constructor
  case v =>
    intro k hk
    have hne : k ≠ x := fun he => hk (by simp [he])
    exact s.getV_setV_ne b hne
  all_goals simp

/-- A result in Vx and then a flag in VF change those two registers alone. -/
theorem State.setV_setV_vf_changesOnly (s : State) (x : RegIndex) (b flag : Byte) :
    ChangesOnly [.v x, .v vf] s ((s.setV x b).setV vf flag) := by
  have hresult : ChangesOnly [.v x, .v vf] s (s.setV x b) := (s.setV_changesOnly x b).mono (by simp)
  have hflag : ChangesOnly [.v x, .v vf] (s.setV x b) ((s.setV x b).setV vf flag) :=
    ((s.setV x b).setV_changesOnly vf flag).mono (by simp)
  exact hresult.trans hflag

/-- A flag written last leaves a result that is not in VF. -/
theorem State.getV_setV_setV_vf (s : State) {x : RegIndex} (b flag : Byte) (hx : x ≠ vf) :
    ((s.setV x b).setV vf flag).getV x = b := by
  rw [State.getV_setV_ne _ _ hx, State.getV_setV_self]

/-! ### Results and flags as natural numbers -/

theorem toNat_addByte (a b : Byte) : (addByte a b).toNat = (a.toNat + b.toNat) % 256 :=
  BitVec.toNat_ofNat _ _

theorem carryFlag_eq (a b : Byte) : carryFlag a b = if 255 < a.toNat + b.toNat then 1 else 0 := by
  simp only [carryFlag, flagByte, decide_eq_true_eq, gt_iff_lt]

/-- The difference mod 256, by whether there is a borrow (R147). -/
theorem toNat_subByte (a b : Byte) :
    (subByte a b).toNat = if a.toNat < b.toNat then a.toNat + 256 - b.toNat else a.toNat - b.toNat := by
  have ha : a.toNat < 256 := a.isLt
  have hmod : (subByte a b).toNat = (a.toNat + 256 - b.toNat) % 256 := BitVec.toNat_ofNat _ _
  split <;> omega

theorem notBorrowFlag_eq (a b : Byte) : notBorrowFlag a b = if a.toNat < b.toNat then 0 else 1 := by
  simp only [notBorrowFlag, flagByte, decide_eq_true_eq, ite_not]

/-- What SUB and SUBN share: a − b in Vx and then its not-borrow in VF (R147, R149). -/
theorem State.subtraction_writes (s : State) (x : RegIndex) (a b : Byte) :
    (x ≠ vf → (((s.setV x (subByte a b)).setV vf (notBorrowFlag a b)).getV x).toNat =
      if a.toNat < b.toNat then a.toNat + 256 - b.toNat else a.toNat - b.toNat) ∧
    ((s.setV x (subByte a b)).setV vf (notBorrowFlag a b)).getV vf = (if a.toNat < b.toNat then 0 else 1) ∧
    ChangesOnly [.v x, .v vf] s ((s.setV x (subByte a b)).setV vf (notBorrowFlag a b)) := by
  refine ⟨fun hx => ?difference, ?flag, s.setV_setV_vf_changesOnly x _ _⟩
  case difference => rw [State.getV_setV_setV_vf _ _ _ hx, toNat_subByte]
  case flag => rw [State.getV_setV_self, notBorrowFlag_eq]

/-! ### The statements -/

/-- Settles O22: each handler is one write of Vx, with the bitwise operation on the two registers. -/
theorem bitwiseLogicWritesOnlyVx : Obligations.BitwiseLogicWritesOnlyVx := by
  intro x y s
  have hor : exec (.orReg x y) s = .next (s.setV x (s.getV x ||| s.getV y)) := rfl
  have hand : exec (.andReg x y) s = .next (s.setV x (s.getV x &&& s.getV y)) := rfl
  have hxor : exec (.xorReg x y) s = .next (s.setV x (s.getV x ^^^ s.getV y)) := rfl
  refine ⟨decodeOpcode_8xyn (n := 1) x y rfl (by simp [opcodeRows8]), decodeOpcode_8xyn (n := 2) x y rfl (by simp [opcodeRows8]),
    decodeOpcode_8xyn (n := 3) x y rfl (by simp [opcodeRows8]), ⟨_, hor, s.setV_changesOnly x _, fun b _ => ?orBit⟩,
    ⟨_, hand, s.setV_changesOnly x _, fun b _ => ?andBit⟩, ⟨_, hxor, s.setV_changesOnly x _, fun b _ => ?xorBit⟩⟩
  case orBit => rw [State.getV_setV_self, BitVec.getLsbD_or]
  case andBit => rw [State.getV_setV_self, BitVec.getLsbD_and]
  case xorBit => rw [State.getV_setV_self, BitVec.getLsbD_xor]

/-- Settles O23: the handler writes the sum and then the carry, both of the old registers. -/
theorem addRegistersWritesSumThenCarry : Obligations.AddRegistersWritesSumThenCarry := by
  intro x y s
  have hexec : exec (.addReg x y) s =
      .next ((s.setV x (addByte (s.getV x) (s.getV y))).setV vf (carryFlag (s.getV x) (s.getV y))) := rfl
  refine ⟨decodeOpcode_8xyn (n := 4) x y rfl (by simp [opcodeRows8]), _, hexec, fun hx => ?sum, ?carry,
    s.setV_setV_vf_changesOnly x _ _⟩
  case sum => rw [State.getV_setV_setV_vf _ _ _ hx, toNat_addByte]
  case carry => rw [State.getV_setV_self, carryFlag_eq]

/-- Settles O24: the handler writes Vx − Vy and then its not-borrow, both of the old registers. -/
theorem subtractWritesDifferenceThenNotBorrow : Obligations.SubtractWritesDifferenceThenNotBorrow := by
  intro x y s
  have hexec : exec (.subReg x y) s =
      .next ((s.setV x (subByte (s.getV x) (s.getV y))).setV vf (notBorrowFlag (s.getV x) (s.getV y))) := rfl
  exact ⟨decodeOpcode_8xyn (n := 5) x y rfl (by simp [opcodeRows8]), _, hexec, s.subtraction_writes x _ _⟩

/-- Settles O25: the handler is SUB's with the operands exchanged. -/
theorem reverseSubtractWritesDifferenceThenNotBorrow : Obligations.ReverseSubtractWritesDifferenceThenNotBorrow := by
  intro x y s
  have hexec : exec (.subnReg x y) s =
      .next ((s.setV x (subByte (s.getV y) (s.getV x))).setV vf (notBorrowFlag (s.getV y) (s.getV x))) := rfl
  exact ⟨decodeOpcode_8xyn (n := 7) x y rfl (by simp [opcodeRows8]), _, hexec, s.subtraction_writes x _ _⟩

end Sys2Proof.Machine

/-! ## Proofs: graphics (43_graphics.md)

What a screen write changes, and what the host reads of the screen after it. -/

namespace Sys2Proof.Machine

/-- A screen write changes the framebuffer and REDRAW (D20). -/
theorem State.setScreen_changesOnly (s : State) (fb : Framebuffer) : ChangesOnly [.fb, .redraw] s (s.setScreen fb) := by
  constructor <;> simp

/-- A cell read after a screen write is a cell of the framebuffer written (R245). -/
@[simp] theorem State.readCell_setScreen (s : State) (fb : Framebuffer) (row col : Nat) :
    (s.setScreen fb).readCell row col = fb.cell (cellIndex row col) := rfl

/-- Settles O29: the handler of CLS is one write of the screen, with the clear framebuffer. -/
theorem clearScreenZeroesEveryCell : Obligations.ClearScreenZeroesEveryCell := by
  refine ⟨by decide, fun s => ?_⟩
  have hexec : exec .cls s = .next (s.setScreen Framebuffer.clear) := rfl
  refine ⟨_, hexec, fun row col _ _ => ?cells, s.setScreen_redraw _, s.setScreen_changesOnly _⟩
  case cells => rw [State.readCell_setScreen, Framebuffer.cell_clear]

end Sys2Proof.Machine

/-! ## Proofs: keys, timers and the index register (44_timer_key_index_memory.md)

How the opcodes that select an operation by their last two digits are decoded; what a write of I, DT or ST changes; the branches of
SKP and SKNP by whether Vx is the index of a key. -/

namespace Sys2Proof

/-- The rows whose one operand is x, their other three digits fixed: Ex9E to Fx65; `w` is the opcode with x = 0. -/
theorem decodeOpcode_selector {op y n : Fin 16} {w : Nat} {mk : RegIndex → Instr} (x : RegIndex)
    (hw : w = op.val * 0x1000 + y.val * 0x10 + n.val)
    (hrow : ⟨some op, none, some y, some n, fun f => mk f.x⟩ ∈ opcodeRowsAtoE ++ opcodeRowsF) :
    decodeOpcode (BitVec.ofNat 16 (w + x.val * 0x100)) = .ok (mk x) := by
  have hword : w + x.val * 0x100 = op.val * 0x1000 + n.val + x.val * 0x100 + y.val * 0x10 := by omega
  rw [hword, ofNat_eq_packDigits x y rfl]
  obtain ⟨hop, hx, hy, hn⟩ := fieldsOf_packDigits op x y n
  have htable : ⟨some op, none, some y, some n, fun f => mk f.x⟩ ∈ opcodeTable Config.hasLdRegSneReg := by
    rw [opcodeTable, List.append_assoc]
    exact List.mem_append_right _ hrow
  have hdec := decodeOpcode_of_row (w := packDigits op x y n) htable (by simp [OpcodeRow.matchesFields, fits, hop, hy, hn])
  simpa only [hx] using hdec

theorem decodeOpcode_ldI (nnn : Addr12) : decodeOpcode (packNnn 0xA nnn) = .ok (.ldI nnn) :=
  decodeOpcode_packNnn nnn (by simp [opcodeTable, opcodeRowsAtoE])

end Sys2Proof

namespace Sys2Proof.Machine

/-! ### What writes of I and of the timers change -/

/-- A write of I changes I alone. -/
theorem State.setI_changesOnly (s : State) (w : Word) : ChangesOnly [.i] s (s.setI w) := by
  constructor <;> simp

/-- A write of the delay timer changes DT alone. -/
theorem State.setDt_changesOnly (s : State) (b : Byte) : ChangesOnly [.dt] s (s.setDt b) := by
  constructor <;> simp

/-- A write of the sound timer changes ST alone. -/
theorem State.setSt_changesOnly (s : State) (b : Byte) : ChangesOnly [.st] s (s.setSt b) := by
  constructor <;> simp

/-! ### SKP and SKNP, branch by branch -/

/-- SKP with the index of a key in Vx: a skip on that key's flag (R190). -/
theorem exec_skp_of_key {s : State} {x : RegIndex} {k : Fin 16} (h : (s.getV x).toNat = k.val) :
    exec (.skp x) s = .next (s.skipIf s.keys[k.val]) := by
  simp only [exec, execSkp, (s.keyIndex_eq_some x k).2 h, State.keyPressed]

/-- SKNP with the index of a key in Vx: a skip on the negation of that key's flag (R191). -/
theorem exec_sknp_of_key {s : State} {x : RegIndex} {k : Fin 16} (h : (s.getV x).toNat = k.val) :
    exec (.sknp x) s = .next (s.skipIf !s.keys[k.val]) := by
  simp only [exec, execSknp, (s.keyIndex_eq_some x k).2 h, State.keyPressed]

/-- SKP with no key's index in Vx (R190, D18). -/
theorem exec_skp_of_no_key {s : State} {x : RegIndex} (h : 15 < (s.getV x).toNat) :
    exec (.skp x) s = .next (s.raise .outOfBounds) := by
  simp only [exec, execSkp, (s.keyIndex_eq_none x).2 h]

/-- SKNP with no key's index in Vx (R191, D18). -/
theorem exec_sknp_of_no_key {s : State} {x : RegIndex} (h : 15 < (s.getV x).toNat) :
    exec (.sknp x) s = .next (s.raise .outOfBounds) := by
  simp only [exec, execSknp, (s.keyIndex_eq_none x).2 h]

/-! ### The statements -/

/-- Settles O33: with Vx ≤ 15 the handlers are a skip on the key's flag and on its negation, above 15 the fault alone. -/
theorem skipsOnKeyState : Obligations.SkipsOnKeyState := by
  intro x s
  refine ⟨decodeOpcode_selector (op := 0xE) (y := 0x9) (n := 0xE) x rfl (by simp [opcodeRowsAtoE]),
    decodeOpcode_selector (op := 0xE) (y := 0xA) (n := 0x1) x rfl (by simp [opcodeRowsAtoE]), fun k hk => ⟨?skp, ?sknp⟩,
    fun hbig => ⟨?skpFault, ?sknpFault⟩⟩
  case skp =>
    refine ⟨_, exec_skp_of_key hk, s.skipIf_changesOnly _, fun hpressed => ?_, fun hreleased => ?_⟩
    · simp [State.skipIf_pc, hpressed]
    · simp [State.skipIf_pc, hreleased]
  case sknp =>
    refine ⟨_, exec_sknp_of_key hk, s.skipIf_changesOnly _, fun hpressed => ?_, fun hreleased => ?_⟩
    · simp [State.skipIf_pc, hpressed]
    · simp [State.skipIf_pc, hreleased]
  case skpFault => exact ⟨_, exec_skp_of_no_key hbig, s.raise_run _, s.raise_changesOnly _⟩
  case sknpFault => exact ⟨_, exec_sknp_of_no_key hbig, s.raise_run _, s.raise_changesOnly _⟩

/-- Settles O36: each handler is one write, of Vx, DT or ST. -/
theorem timerTransfersCopyOneByte : Obligations.TimerTransfersCopyOneByte := by
  intro x s
  have hread : exec (.ldVxDt x) s = .next (s.setV x s.dt) := rfl
  have hdelay : exec (.ldDtVx x) s = .next (s.setDt (s.getV x)) := rfl
  have hsound : exec (.ldStVx x) s = .next (s.setSt (s.getV x)) := rfl
  exact ⟨decodeOpcode_selector (op := 0xF) (y := 0x0) (n := 0x7) x rfl (by simp [opcodeRowsF]),
    decodeOpcode_selector (op := 0xF) (y := 0x1) (n := 0x5) x rfl (by simp [opcodeRowsF]),
    decodeOpcode_selector (op := 0xF) (y := 0x1) (n := 0x8) x rfl (by simp [opcodeRowsF]),
    ⟨_, hread, s.getV_setV_self x _, s.setV_changesOnly x _⟩, ⟨_, hdelay, s.setDt_dt _, s.setDt_changesOnly _⟩,
    ⟨_, hsound, s.setSt_st _, s.setSt_changesOnly _⟩⟩

/-- Settles O40: the handler of LD I is one write of I. -/
theorem loadIndexWritesTheAddress : Obligations.LoadIndexWritesTheAddress := by
  intro nnn s
  have hexec : exec (.ldI nnn) s = .next (s.setI (zextAddr nnn)) := rfl
  exact ⟨decodeOpcode_ldI nnn, _, hexec, toNat_zextAddr nnn, s.setI_changesOnly _⟩

end Sys2Proof.Machine

/-! ## Proofs: the host's operations on the timers and on REDRAW (60_exceptions.md)

What a tick and the clearing of REDRAW change, and the one thing an instruction, a step and a host operation can do to REDRAW. -/

namespace Sys2Proof.Machine

/-- A state differs from itself in no piece. -/
theorem ChangesOnly.refl (ps : List Part) (s : State) : ChangesOnly ps s s := by
  constructor <;> intros <;> rfl

/-- An ended run is not going on (R264). -/
theorem State.run_ne_running_of_ended {s : State} (h : s.successfulEnd ∨ s.failedEnd) : s.run ≠ .running := by
  obtain ⟨a, hhalted⟩ | ⟨k, a, hfaulted⟩ := h
  · simp [hhalted]
  · simp [hfaulted]

/-! ### `tick_timers()` and `clear_redraw()` -/

/-- R239: while the run goes on a tick writes DT and then ST. -/
theorem State.tickTimers_of_running {s : State} (h : s.run = .running) :
    s.tickTimers = (s.setDt (tickTimer s.dt)).setSt (tickTimer s.st) := by
  simp only [State.tickTimers, h]

/-- D22: after the end of a run a tick does nothing. -/
theorem State.tickTimers_of_ended {s : State} (h : s.run ≠ .running) : s.tickTimers = s := by
  unfold State.tickTimers
  cases hr : s.run with
  | running => exact absurd hr h
  | halted a => rfl
  | faulted k a => rfl

/-- A tick changes DT and ST alone, in any run state (R239). -/
theorem State.tickTimers_changesOnly (s : State) : ChangesOnly [.dt, .st] s s.tickTimers := by
  by_cases hrun : s.run = .running
  · rw [State.tickTimers_of_running hrun]
    have hdelay : ChangesOnly [.dt, .st] s (s.setDt (tickTimer s.dt)) := (s.setDt_changesOnly _).mono (by simp)
    have hsound : ChangesOnly [.dt, .st] (s.setDt (tickTimer s.dt)) ((s.setDt (tickTimer s.dt)).setSt (tickTimer s.st)) :=
      ((s.setDt _).setSt_changesOnly _).mono (by simp)
    exact hdelay.trans hsound
  · rw [State.tickTimers_of_ended hrun]
    exact .refl _ s

/-- Clearing REDRAW changes REDRAW alone (R245). -/
theorem State.clearRedraw_changesOnly (s : State) : ChangesOnly [.redraw] s s.clearRedraw := by
  constructor
  case redraw => simp
  all_goals intros; rfl

/-! ### What happens to REDRAW -/

@[simp] theorem State.clearRedraw_redraw (s : State) : s.clearRedraw.redraw = false := rfl

@[simp] theorem State.setKeys_redraw (s : State) (k : Vector Bool 16) : (s.setKeys k).redraw = s.redraw := rfl

@[simp] theorem State.tickTimers_redraw (s : State) : s.tickTimers.redraw = s.redraw :=
  s.tickTimers_changesOnly.redraw (by simp)

@[simp] theorem State.skipIf_redraw (s : State) (c : Bool) : (s.skipIf c).redraw = s.redraw :=
  (s.skipIf_changesOnly c).redraw (by simp)

@[simp] theorem State.shiftRegister_redraw (m : Config.ShiftVfDest) (s : State) (x : RegIndex) (out shift : Byte → Byte) :
    (s.shiftRegister m x out shift).redraw = s.redraw := by
  obtain ⟨v, hv⟩ := s.shiftRegister_eq m x out shift
  rw [hv]

/-- An instruction keeps REDRAW or sets it (R245, D20). -/
theorem exec_redraw {i : Instr} {s t : State} (h : exec i s = .next t) : t.redraw = s.redraw ∨ t.redraw = true := by
  cases i
  case cls =>
    obtain rfl := Host.Outcome.next.inj h
    exact .inr (s.setScreen_redraw _)
  case drw x y n =>
    obtain ⟨-, rfl⟩ | ⟨-, rfl⟩ := State.unlessFault_next h
    · exact .inr (by simp)
    · exact .inl (s.raise_redraw _)
  case ldB x | storeRegs x | loadRegs x =>
    obtain ⟨-, rfl⟩ | ⟨-, rfl⟩ := State.unlessFault_next h
    · exact .inl (by simp)
    · exact .inl (s.raise_redraw _)
  case ret | call nnn | skp x | sknp x | ldVxK x =>
    obtain rfl := Host.Outcome.next.inj h
    left
    split <;> simp
  all_goals
    obtain rfl := Host.Outcome.next.inj h
    exact .inl (by simp)

/-- A step keeps REDRAW or sets it: the fetch, the advance and a fault leave it alone. -/
theorem step_redraw {s t : State} (h : step s = .next t) : t.redraw = s.redraw ∨ t.redraw = true := by
  obtain ⟨-, rfl⟩ | ⟨-, -, rfl⟩ | ⟨-, -, -, rfl⟩ | ⟨-, -, i, -, hexec⟩ := step_cases h
  · exact .inl rfl
  · exact .inl (s.faultAt_redraw _ _)
  · exact .inl (by simp)
  · simpa using exec_redraw hexec

/-- Every host operation but the clearing one keeps REDRAW or sets it (R245). -/
theorem hostOp_redraw {o : HostOp} {s t : State} (ho : o ≠ .clearRedraw) (h : hostOp o s = .next t) :
    t.redraw = s.redraw ∨ t.redraw = true := by
  cases o with
  | step => exact step_redraw h
  | tickTimers =>
    obtain rfl := Host.Outcome.next.inj h
    exact .inl s.tickTimers_redraw
  | setKeys k =>
    obtain rfl := Host.Outcome.next.inj h
    exact .inl (s.setKeys_redraw k)
  | clearRedraw => exact absurd rfl ho

/-! ### The statements -/

/-- Settles O39: `clear_redraw()` is one write of REDRAW, and every other operation keeps REDRAW or sets it. -/
theorem onlyClearRedrawClearsTheRedrawFlag : Obligations.OnlyClearRedrawClearsTheRedrawFlag := by
  intro s
  have hclear : hostOp .clearRedraw s = .next s.clearRedraw := rfl
  refine ⟨⟨_, hclear, s.clearRedraw_redraw, s.clearRedraw_changesOnly⟩, fun o t ho hop hset => ?_⟩
  obtain hkept | hset' := hostOp_redraw ho hop
  · rw [hkept, hset]
  · exact hset'

/-- Settles O37: a tick writes each timer's floored predecessor while the run goes on, and nothing after its end. -/
theorem tickLowersEachTimerToZero : Obligations.TickLowersEachTimerToZero := by
  intro s
  have htick : hostOp .tickTimers s = .next s.tickTimers := rfl
  refine ⟨fun hrun => ⟨_, htick, ?delay, ?sound, s.tickTimers_changesOnly⟩, fun hend => ?ended⟩
  case delay => rw [State.tickTimers_of_running hrun, State.setSt_dt, State.setDt_dt, toNat_tickTimer]
  case sound => rw [State.tickTimers_of_running hrun, State.setSt_st, toNat_tickTimer]
  case ended => rw [htick, State.tickTimers_of_ended (State.run_ne_running_of_ended hend)]

end Sys2Proof.Machine

/-! ## Proofs: instructions and steps as lists of writes (R102 to R108)

Every instruction, and every step, is a list of writes, each of one value to one piece of the state, computed from the state
before it (`exec_eq`, `step_eq`). The rules over the whole instruction set, the invariants and the statements that compare two
runs speak of these lists. -/

namespace Sys2Proof.Machine

/-! ### One piece of the state -/

/-- The piece `p` holds the same in `t` as in `s`. -/
def Part.same (p : Part) (s t : State) : Prop :=
  match p with
  | .v k => t.getV k = s.getV k
  | .i => t.i = s.i
  | .pc => t.pc = s.pc
  | .slot k => t.stack[k]? = s.stack[k]?
  | .sp => t.sp = s.sp
  | .dt => t.dt = s.dt
  | .st => t.st = s.st
  | .byte a => t.mem.read a = s.mem.read a
  | .fb => t.fb = s.fb
  | .redraw => t.redraw = s.redraw
  | .keys => t.keys = s.keys
  | .run => t.run = s.run
  | .draws => t.draws = s.draws

theorem Part.same_symm {p : Part} {s t : State} (h : p.same s t) : p.same t s := by
  cases p <;> exact Eq.symm h

theorem Part.same_trans {p : Part} {s t u : State} (h : p.same s t) (h' : p.same t u) : p.same s u := by
  cases p <;> exact Eq.trans h' h

/-- The frame relation, piece by piece. -/
theorem changesOnly_iff {ps : List Part} {s t : State} : ChangesOnly ps s t ↔ ∀ p, p ∉ ps → p.same s t := by
  constructor
  · intro h p hp
    cases p with
    | v k => exact h.v k hp
    | i => exact h.i hp
    | pc => exact h.pc hp
    | slot k => exact h.slot k hp
    | sp => exact h.sp hp
    | dt => exact h.dt hp
    | st => exact h.st hp
    | byte a => exact h.byte a hp
    | fb => exact h.fb hp
    | redraw => exact h.redraw hp
    | keys => exact h.keys hp
    | run => exact h.run hp
    | draws => exact h.draws hp
  · intro h
    exact { v := fun k => h (.v k), i := h .i, pc := h .pc, slot := fun k => h (.slot k), sp := h .sp, dt := h .dt, st := h .st,
            byte := fun a => h (.byte a), fb := h .fb, redraw := h .redraw, keys := h .keys, run := h .run, draws := h .draws }

/-- Two register files that hold the same in every register are the same. -/
theorem v_eq_of_getV_eq {s t : State} (h : ∀ k, t.getV k = s.getV k) : t.v = s.v :=
  Vector.ext fun k hk => h ⟨k, hk⟩

/-- Two stacks that hold the same in every slot are the same. -/
theorem stack_eq_of_getElem?_eq {s t : State} (h : ∀ k : Nat, t.stack[k]? = s.stack[k]?) : t.stack = s.stack :=
  Vector.ext fun k hk => by simpa [hk] using h k

/-! ### Writes -/

/-- A write of one value to one piece of the state. -/
inductive Write where
  | v (k : RegIndex) (b : Byte)
  | i (w : Word)
  | pc (w : Word)
  | slot (k : Nat) (w : Word)
  | sp (n : Fin 17)
  | dt (b : Byte)
  | st (b : Byte)
  | byte (a : Nat) (b : Byte)
  | fb (f : Framebuffer)
  /-- REDRAW is only ever set (D20). -/
  | redraw
  | run (r : RunState)
  | draws (n : Nat)

/-- The piece a write is to. -/
def Write.part : Write → Part
  | .v k _ => .v k
  | .i _ => .i
  | .pc _ => .pc
  | .slot k _ => .slot k
  | .sp _ => .sp
  | .dt _ => .dt
  | .st _ => .st
  | .byte a _ => .byte a
  | .fb _ => .fb
  | .redraw => .redraw
  | .run _ => .run
  | .draws _ => .draws

/-- The state after a write. -/
def Write.apply (s : State) : Write → State
  | .v k b => s.setV k b
  | .i w => s.setI w
  | .pc w => s.setPc w
  | .slot k w => { s with stack := s.stack.setIfInBounds k w }
  | .sp n => { s with sp := n }
  | .dt b => s.setDt b
  | .st b => s.setSt b
  | .byte a b => { s with mem := s.mem.write a b }
  | .fb f => { s with fb := f }
  | .redraw => { s with redraw := true }
  | .run r => { s with run := r }
  | .draws n => { s with draws := n }

/-- The state after the writes of a list, in its order. -/
def State.applyAll (s : State) (ws : List Write) : State :=
  ws.foldl Write.apply s

@[simp] theorem State.applyAll_nil (s : State) : s.applyAll [] = s := rfl

@[simp] theorem State.applyAll_cons (s : State) (w : Write) (ws : List Write) :
    s.applyAll (w :: ws) = (w.apply s).applyAll ws := rfl

/-- A write changes the piece it is to alone. -/
theorem Write.apply_changesOnly (w : Write) (s : State) : ChangesOnly [w.part] s (w.apply s) := by
  cases w with
  | v k b => exact s.setV_changesOnly k b
  | i w => exact s.setI_changesOnly w
  | pc w => exact s.setPc_changesOnly w
  | dt b => exact s.setDt_changesOnly b
  | st b => exact s.setSt_changesOnly b
  | slot k w =>
    constructor
    case slot =>
      intro j hj
      have hne : k ≠ j := fun he => hj (by simp [Write.part, he])
      exact Vector.getElem?_setIfInBounds_ne hne
    all_goals intros; rfl
  | byte a b =>
    constructor
    case byte =>
      intro c hc
      have hne : c ≠ a := fun he => hc (by simp [Write.part, he])
      exact s.mem.read_write_ne b hne
    all_goals intros; rfl
  | sp n => constructor <;> simp [Write.part, Write.apply, State.getV]
  | fb f => constructor <;> simp [Write.part, Write.apply, State.getV]
  | redraw => constructor <;> simp [Write.part, Write.apply, State.getV]
  | run r => constructor <;> simp [Write.part, Write.apply, State.getV]
  | draws n => constructor <;> simp [Write.part, Write.apply, State.getV]

/-- A list of writes changes the pieces they are to alone. -/
theorem State.applyAll_changesOnly (s : State) (ws : List Write) : ChangesOnly (ws.map Write.part) s (s.applyAll ws) := by
  induction ws generalizing s with
  | nil => exact .refl _ s
  | cons w ws ih =>
    have hfirst : ChangesOnly ((w :: ws).map Write.part) s (w.apply s) := (w.apply_changesOnly s).mono (by simp)
    have hrest : ChangesOnly ((w :: ws).map Write.part) (w.apply s) ((w.apply s).applyAll ws) := (ih _).mono (by simp)
    exact hfirst.trans hrest

/-- After the same write, two states hold the same in the piece it is to. -/
theorem Write.part_same_apply (w : Write) (s s' : State) : w.part.same (w.apply s) (w.apply s') := by
  cases w with
  | v k b => exact (s'.getV_setV_self k b).trans (s.getV_setV_self k b).symm
  | slot k w =>
    show (s'.stack.setIfInBounds k w)[k]? = (s.stack.setIfInBounds k w)[k]?
    simp only [Vector.getElem?_setIfInBounds_self]
  | byte a b => exact (s'.mem.read_write_self a b).trans (s.mem.read_write_self a b).symm
  | i | pc | sp | dt | st | fb | redraw | run | draws => rfl

/-- The same writes make two states the same in every piece they are to, and keep them the same in every other piece. -/
theorem Part.same_applyAll {p : Part} {s s' : State} (ws : List Write) (h : p.same s s' ∨ p ∈ ws.map Write.part) :
    p.same (s.applyAll ws) (s'.applyAll ws) := by
  induction ws generalizing s s' with
  | nil => simpa using h
  | cons w ws ih =>
    rw [State.applyAll_cons, State.applyAll_cons]
    refine ih ?_
    rw [List.map_cons, List.mem_cons] at h
    by_cases hw : p = w.part
    · exact .inl (hw ▸ w.part_same_apply s s')
    · have hout : p ∉ [w.part] := by simpa using hw
      obtain hsame | heq | hrest := h
      · left
        have hs := changesOnly_iff.1 (w.apply_changesOnly s) p hout
        have hs' := changesOnly_iff.1 (w.apply_changesOnly s') p hout
        exact Part.same_trans (Part.same_symm hs) (Part.same_trans hsame hs')
      · exact absurd heq hw
      · exact .inr hrest

/-! ### Blocks of writes -/

/-- The writes of bytes at rising addresses from `a` (R60). -/
def byteWrites (a : Nat) : List Byte → List Write
  | [] => []
  | u :: us => .byte a u :: byteWrites (a + 1) us

theorem State.applyAll_byteWrites (s : State) (a : Nat) (us : List Byte) :
    s.applyAll (byteWrites a us) = { s with mem := s.mem.writeBytes a us } := by
  induction us generalizing s a with
  | nil => rfl
  | cons u us ih => rw [byteWrites, State.applyAll_cons, ih]; rfl

theorem mem_byteWrites {a : Nat} {us : List Byte} {w : Write} :
    w ∈ byteWrites a us ↔ ∃ k, ∃ h : k < us.length, w = .byte (a + k) us[k] := by
  induction us generalizing a with
  | nil => simp [byteWrites]
  | cons u us ih =>
    rw [byteWrites, List.mem_cons, ih]
    constructor
    · rintro (rfl | ⟨k, hk, rfl⟩)
      · exact ⟨0, by simp, rfl⟩
      · exact ⟨k + 1, by simpa using hk, by simp [Nat.add_assoc, Nat.add_comm 1 k]⟩
    · rintro ⟨k, hk, rfl⟩
      cases k with
      | zero => exact .inl rfl
      | succ k => exact .inr ⟨k, by simpa using hk, by simp [Nat.add_assoc, Nat.add_comm 1 k]⟩

/-- The writes of `f k` to Vk, for each k of a list (R201). -/
def registerWrites (f : RegIndex → Byte) (ks : List RegIndex) : List Write :=
  ks.map fun k => .v k (f k)

theorem State.applyAll_registerWrites (s : State) (f : RegIndex → Byte) (ks : List RegIndex) :
    s.applyAll (registerWrites f ks) = { s with v := Vector.ofFn fun k => if k ∈ ks then f k else s.getV k } := by
  induction ks generalizing s with
  | nil =>
    have hv : (Vector.ofFn fun k => s.getV k) = s.v := Vector.ext fun k hk => by simp [State.getV]
    simp [registerWrites, hv]
  | cons j ks ih =>
    have hfirst : s.applyAll (registerWrites f (j :: ks)) = (s.setV j (f j)).applyAll (registerWrites f ks) := rfl
    rw [hfirst, ih]
    congr 1
    refine Vector.ext fun k hk => ?_
    simp only [Vector.getElem_ofFn, State.getV_setV, List.mem_cons]
    by_cases hmem : (⟨k, hk⟩ : RegIndex) ∈ ks
    · simp [hmem]
    · by_cases hj : (⟨k, hk⟩ : RegIndex) = j
      · simp [hj]
      · simp [hmem, hj]

/-- The registers up to Vx. -/
def registersUpTo (x : RegIndex) : List RegIndex :=
  (List.finRange 16).filter (· ≤ x)

@[simp] theorem mem_registersUpTo {x k : RegIndex} : k ∈ registersUpTo x ↔ k ≤ x := by
  simp [registersUpTo]

/-! ### The writes of each instruction -/

/-- A skip's write of pc (R123). -/
def skipWrite (s : State) (c : Bool) : Write :=
  .pc (if c then s.pc + 2 else s.pc)

/-- What an instruction writes when its fault condition does not hold, in the order of its rule. -/
def writes : Instr → State → List Write
  | .halt, s => [.run (.halted s.instrAddress)]
  | .cls, _ => [.fb Framebuffer.clear, .redraw]
  | .ret, s => [.sp (s.sp - 1), .pc (s.stack[s.sp.val - 1]?.getD 0)]
  | .jp nnn, _ => [.pc (zextAddr nnn)]
  | .call nnn, s => [.slot s.sp.val s.pc, .sp (s.sp + 1), .pc (zextAddr nnn)]
  | .seImm x kk, s => [skipWrite s (decide (s.getV x = kk))]
  | .sneImm x kk, s => [skipWrite s (decide (s.getV x ≠ kk))]
  | .seReg x y, s => [skipWrite s (decide (s.getV x = s.getV y))]
  | .ldImm x kk, _ => [.v x kk]
  | .addImm x kk, s => [.v x (addByte (s.getV x) kk)]
  | .ldReg x y, s => [.v x (s.getV y)]
  | .orReg x y, s => [.v x (s.getV x ||| s.getV y)]
  | .andReg x y, s => [.v x (s.getV x &&& s.getV y)]
  | .xorReg x y, s => [.v x (s.getV x ^^^ s.getV y)]
  | .addReg x y, s => [.v x (addByte (s.getV x) (s.getV y)), .v vf (carryFlag (s.getV x) (s.getV y))]
  | .subReg x y, s => [.v x (subByte (s.getV x) (s.getV y)), .v vf (notBorrowFlag (s.getV x) (s.getV y))]
  | .shr x, s =>
    [.v vf (shiftedOutRight (s.getV x)),
      .v x (shiftRightByte (if x = vf then shiftedOutRight (s.getV x) else s.getV x))]
  | .subnReg x y, s => [.v x (subByte (s.getV y) (s.getV x)), .v vf (notBorrowFlag (s.getV y) (s.getV x))]
  | .shl x, s =>
    [.v vf (shiftedOutLeft (s.getV x)), .v x (shiftLeftByte (if x = vf then shiftedOutLeft (s.getV x) else s.getV x))]
  | .sneReg x y, s => [skipWrite s (decide (s.getV x ≠ s.getV y))]
  | .ldI nnn, _ => [.i (zextAddr nnn)]
  | .jpV0 nnn, s => [.pc (zextByte (s.getV 0) + zextAddr nnn)]
  | .rnd x kk, s => [.v x (s.randomByte &&& kk), .draws (s.draws + 1)]
  | .drw x y n, s => [.fb (s.drawSprite x y n.val).1, .redraw, .v vf (flagByte (s.drawSprite x y n.val).2)]
  | .skp x, s => [skipWrite s (s.keys[(s.getV x).toNat]?.getD false)]
  | .sknp x, s => [skipWrite s (!s.keys[(s.getV x).toNat]?.getD false)]
  | .ldVxDt x, s => [.v x s.dt]
  | .ldVxK x, s => [match s.lowestKey with | some k => .v x (BitVec.ofNat 8 k) | none => .pc (s.pc - 2)]
  | .ldDtVx x, s => [.dt (s.getV x)]
  | .ldStVx x, s => [.st (s.getV x)]
  | .addI x, s => [.i (BitVec.ofNat 16 (s.i.toNat + (s.getV x).toNat))]
  | .ldF x, s => [.i (glyphAddress (s.getV x))]
  | .ldB x, s => byteWrites s.i.toNat (decimalDigits (s.getV x))
  | .storeRegs x, s => byteWrites s.i.toNat (s.registersTo x)
  | .loadRegs x, s => registerWrites (fun k => s.mem.read (s.i.toNat + k.val)) (registersUpTo x)

@[simp] theorem State.effectiveAddress_zero (s : State) : s.effectiveAddress 0 = s.i.toNat := rfl

/-- The bounds check of a block of m + 1 bytes at I passes when its last byte is in memory (R57). -/
theorem inBounds_succ (a m : Nat) : inBounds a (m + 1) = decide (a + m ≤ 0xFFF) := by
  rw [Bool.eq_iff_iff, inBounds_iff, decide_eq_true_iff]
  omega

theorem State.apply_skipWrite (s : State) (c : Bool) : (skipWrite s c).apply s = s.skipIf c :=
  (s.skipIf_eq c).symm

/-! ### When an instruction raises no fault -/

theorem faultCondition_ret_eq_none {s : State} : faultCondition .ret s = none ↔ 0 < s.sp.val := by
  simp [faultCondition, Nat.pos_iff_ne_zero]

theorem faultCondition_call_eq_none {nnn : Addr12} {s : State} : faultCondition (.call nnn) s = none ↔ s.sp.val < 16 := by
  have hle : s.sp.val ≤ 16 := Nat.le_of_lt_succ s.sp.isLt
  simp only [faultCondition, ite_eq_right_iff, reduceCtorEq, imp_false]
  omega

theorem faultCondition_skp_eq_none {x : RegIndex} {s : State} : faultCondition (.skp x) s = none ↔ (s.getV x).toNat < 16 := by
  simp only [faultCondition, ite_eq_right_iff, reduceCtorEq, imp_false]
  omega

theorem faultCondition_sknp_eq_none {x : RegIndex} {s : State} :
    faultCondition (.sknp x) s = none ↔ (s.getV x).toNat < 16 :=
  faultCondition_skp_eq_none (x := x)

theorem faultCondition_drw_eq_none {x y : RegIndex} {n : Fin 16} {s : State} :
    faultCondition (.drw x y n) s = none ↔ n.val = 0 ∨ s.i.toNat + n.val - 1 ≤ 0xFFF := by
  simp only [faultCondition, ite_eq_right_iff, reduceCtorEq, imp_false]
  omega

theorem faultCondition_ldB_eq_none {x : RegIndex} {s : State} :
    faultCondition (.ldB x) s = none ↔ s.i.toNat + 2 ≤ 0xFFF := by
  simp only [faultCondition, ite_eq_right_iff, reduceCtorEq, imp_false, Nat.not_lt]

theorem faultCondition_storeRegs_eq_none {x : RegIndex} {s : State} :
    faultCondition (.storeRegs x) s = none ↔ s.i.toNat + x.val ≤ 0xFFF := by
  simp only [faultCondition, ite_eq_right_iff, reduceCtorEq, imp_false, Nat.not_lt]

theorem faultCondition_loadRegs_eq_none {x : RegIndex} {s : State} :
    faultCondition (.loadRegs x) s = none ↔ s.i.toNat + x.val ≤ 0xFFF :=
  faultCondition_storeRegs_eq_none (x := x)

/-! ### `exec` as writes -/

/-- An instruction whose fault condition holds raises that fault (R107). -/
theorem exec_of_fault {i : Instr} {s : State} {k : FaultKind} (h : faultCondition i s = some k) :
    exec i s = .next (s.raise k) := by
  cases i
  case call nnn =>
    obtain ⟨hfull, rfl⟩ : s.sp.val = 16 ∧ FaultKind.stackOverflow = k := by simpa [faultCondition] using h
    exact exec_call_of_full nnn hfull
  case ret =>
    obtain ⟨hempty, rfl⟩ : s.sp.val = 0 ∧ FaultKind.stackUnderflow = k := by simpa [faultCondition] using h
    exact exec_ret_of_empty hempty
  case skp x =>
    obtain ⟨hbig, rfl⟩ : 15 < (s.getV x).toNat ∧ FaultKind.outOfBounds = k := by simpa [faultCondition] using h
    exact exec_skp_of_no_key hbig
  case sknp x =>
    obtain ⟨hbig, rfl⟩ : 15 < (s.getV x).toNat ∧ FaultKind.outOfBounds = k := by simpa [faultCondition] using h
    exact exec_sknp_of_no_key hbig
  case drw x y n =>
    obtain ⟨⟨hn, hpast⟩, rfl⟩ : (0 < n.val ∧ 0xFFF < s.i.toNat + n.val - 1) ∧ FaultKind.outOfBounds = k := by
      simpa only [faultCondition, Option.ite_none_right_eq_some, Option.some.injEq] using h
    have hout : inBounds s.i.toNat n.val = false := (inBounds_eq_false _ _).2 (by omega)
    simp [exec, execDrw, State.unlessFault_eq, hout]
  case ldB x =>
    obtain ⟨hpast, rfl⟩ : 0xFFF < s.i.toNat + 2 ∧ FaultKind.outOfBounds = k := by simpa [faultCondition] using h
    have hout : inBounds s.i.toNat 3 = false := (inBounds_eq_false _ _).2 (by omega)
    simp [exec, execLdB, State.unlessFault_eq, hout]
  case storeRegs x =>
    obtain ⟨hpast, rfl⟩ : 0xFFF < s.i.toNat + x.val ∧ FaultKind.outOfBounds = k := by simpa [faultCondition] using h
    simp [exec, execStoreRegs, State.unlessFault_eq, inBounds_succ, hpast]
  case loadRegs x =>
    obtain ⟨hpast, rfl⟩ : 0xFFF < s.i.toNat + x.val ∧ FaultKind.outOfBounds = k := by simpa [faultCondition] using h
    simp [exec, execLoadRegs, State.unlessFault_eq, inBounds_succ, hpast]
  all_goals simp [faultCondition] at h

/-- A push is a write of the slot at SP and then one of SP (R122). -/
theorem State.pushReturn_eq (s : State) (h : s.sp.val < Config.stackDepth) :
    s.pushReturn h = s.applyAll [.slot s.sp.val s.pc, .sp (s.sp + 1)] := by
  have hsp : s.sp + 1 = ⟨s.sp.val + 1, Nat.succ_lt_succ h⟩ :=
    Fin.ext (Nat.mod_eq_of_lt (Nat.succ_lt_succ h))
  have hset : s.stack.setIfInBounds s.sp.val s.pc = s.stack.set s.sp.val s.pc h :=
    Vector.ext fun k hk => by rw [Vector.getElem_setIfInBounds, Vector.getElem_set]
  simp only [State.applyAll_cons, State.applyAll_nil, Write.apply, hsp, hset, State.pushReturn]

/-- A pop is a write of SP and then one of pc (R120). -/
theorem State.popReturn_eq (s : State) (h : 0 < s.sp.val) :
    s.popReturn h = s.applyAll [.sp (s.sp - 1), .pc (s.stack[s.sp.val - 1]?.getD 0)] := by
  have hlt : s.sp.val - 1 < 16 := by omega
  have hsp : s.sp - 1 = ⟨s.sp.val - 1, by omega⟩ := by
    refine Fin.ext (Fin.sub_val_of_le ?_)
    exact Fin.le_def.2 h
  simp only [State.applyAll_cons, State.applyAll_nil, Write.apply, hsp, Vector.getElem?_eq_getElem hlt, Option.getD_some]
  rfl

/-- LD Vx, [I] is a block of register writes (R201). -/
theorem State.loadRegisters_eq (s : State) (x : RegIndex) :
    s.loadRegisters x = s.applyAll (registerWrites (fun k => s.mem.read (s.i.toNat + k.val)) (registersUpTo x)) := by
  simp only [State.applyAll_registerWrites, mem_registersUpTo, Fin.le_def]
  rfl

/-- A shift under the model's reading of `SHIFT_VF_DEST` is a write of VF and then one of Vx (D7, log 4). -/
theorem State.shiftRegister_eq_writes (s : State) (x : RegIndex) (out shift : Byte → Byte) :
    s.shiftRegister Config.shiftVfDest x out shift =
      s.applyAll [.v vf (out (s.getV x)), .v x (shift (if x = vf then out (s.getV x) else s.getV x))] := by
  simp only [State.shiftRegister, State.getV_setV, State.applyAll_cons, State.applyAll_nil, Write.apply]

/-- An instruction whose fault condition does not hold performs its writes (R107). -/
theorem exec_of_no_fault {i : Instr} {s : State} (h : faultCondition i s = none) :
    exec i s = .next (s.applyAll (writes i s)) := by
  cases i
  case ret =>
    rw [exec_ret_of_pos (faultCondition_ret_eq_none.1 h), State.popReturn_eq, writes]
  case call nnn =>
    rw [exec_call_of_room nnn (faultCondition_call_eq_none.1 h), State.pushReturn_eq]
    rfl
  case skp x =>
    have hkey := faultCondition_skp_eq_none.1 h
    rw [exec_skp_of_key (k := ⟨_, hkey⟩) rfl, writes, Vector.getElem?_eq_getElem hkey, State.applyAll_cons,
      State.apply_skipWrite]
    rfl
  case sknp x =>
    have hkey := faultCondition_sknp_eq_none.1 h
    rw [exec_sknp_of_key (k := ⟨_, hkey⟩) rfl, writes, Vector.getElem?_eq_getElem hkey, State.applyAll_cons,
      State.apply_skipWrite]
    rfl
  case drw x y n =>
    have hin : inBounds s.i.toNat n.val = true := (inBounds_iff _ _).2 (faultCondition_drw_eq_none.1 h)
    simp only [exec, execDrw, State.unlessFault_eq, State.effectiveAddress_zero, hin, if_true]
    rfl
  case ldB x =>
    have hin : inBounds s.i.toNat 3 = true := (inBounds_iff _ _).2 (.inr (faultCondition_ldB_eq_none.1 h))
    simp only [exec, execLdB, State.unlessFault_eq, State.effectiveAddress_zero, hin, if_true, writes,
      State.applyAll_byteWrites]
    rfl
  case storeRegs x =>
    have hle := faultCondition_storeRegs_eq_none.1 h
    simp only [exec, execStoreRegs, State.unlessFault_eq, State.effectiveAddress_zero, inBounds_succ, hle, decide_true,
      if_true, writes, State.applyAll_byteWrites]
    rfl
  case loadRegs x =>
    have hle := faultCondition_loadRegs_eq_none.1 h
    simp only [exec, execLoadRegs, State.unlessFault_eq, State.effectiveAddress_zero, inBounds_succ, hle, decide_true,
      if_true, State.loadRegisters_eq, writes]
  case ldVxK x =>
    simp only [exec, execLdVxK, writes]
    cases s.lowestKey <;> rfl
  case seImm | sneImm | seReg | sneReg =>
    simp only [writes, State.applyAll_cons, State.applyAll_nil, State.apply_skipWrite]
    rfl
  case shr x => simp only [exec, execShr, State.shiftRegister_eq_writes, writes]
  case shl x => simp only [exec, execShl, State.shiftRegister_eq_writes, writes]
  all_goals rfl

/-- What an instruction writes: RUN alone when its fault condition holds (R107, R231). -/
def effects (i : Instr) (s : State) : List Write :=
  match faultCondition i s with
  | some k => [.run (.faulted k s.instrAddress)]
  | none => writes i s

theorem effects_of_fault {i : Instr} {s : State} {k : FaultKind} (h : faultCondition i s = some k) :
    effects i s = [.run (.faulted k s.instrAddress)] := by
  rw [effects, h]

theorem effects_of_no_fault {i : Instr} {s : State} (h : faultCondition i s = none) : effects i s = writes i s := by
  rw [effects, h]

/-- Every instruction answers the next state its writes make. -/
theorem exec_eq (i : Instr) (s : State) : exec i s = .next (s.applyAll (effects i s)) := by
  cases h : faultCondition i s with
  | some k => rw [exec_of_fault h, effects_of_fault h]; rfl
  | none => rw [exec_of_no_fault h, effects_of_no_fault h]

/-! ### The writes of a step -/

/-- What a step writes (R100 to R107). -/
def stepWrites (s : State) : List Write :=
  if s.run = .running then
    if s.pc.toNat + 1 ≤ 0xFFF then
      .pc (s.pc + 2) ::
        match decodeOpcode s.opcodeAtPc with
        | .error _ => [.run (.faulted .unimplementedInstruction s.pc)]
        | .ok i => effects i s.advance
    else [.run (.faulted .outOfBounds s.pc)]
  else []

/-- R101: past the last address a fetch raises OutOfBounds. -/
theorem step_of_past_memory {s : State} (hrun : s.run = .running) (hpc : 0xFFF ≤ s.pc.toNat) :
    step s = .next (s.faultAt .outOfBounds s.pc) := by
  have hfetch : s.fetch = none := by rw [State.fetch_eq, if_neg (by omega)]
  simp only [step, hrun, hfetch]

/-- Every step answers the next state its writes make. -/
theorem step_eq (s : State) : step s = .next (s.applyAll (stepWrites s)) := by
  by_cases hrun : s.run = .running
  · by_cases hpc : s.pc.toNat + 1 ≤ 0xFFF
    · cases hdec : decodeOpcode s.opcodeAtPc with
      | error e =>
        rw [step_of_decodeOpcode_error hrun hpc hdec]
        simp only [stepWrites, hrun, hpc, hdec, if_true, State.raise, State.instrAddress_advance]
        rfl
      | ok i =>
        rw [step_of_decodeOpcode_ok hrun hpc hdec, exec_eq]
        simp only [stepWrites, hrun, hpc, hdec, if_true]
        rfl
    · rw [step_of_past_memory hrun (by omega), stepWrites, if_pos hrun, if_neg hpc]
      rfl
  · rw [step_of_ended hrun, stepWrites, if_neg hrun]
    rfl

end Sys2Proof.Machine

/-! ## Proofs: rules over the whole instruction set (R107, R108)

Which pieces an instruction may write, when it faults, and what an ended run keeps. -/

namespace Sys2Proof.Machine

/-! ### The pieces an instruction may write -/

/-- The instructions whose writes may be to a piece of state, piece by piece (R108). -/
def mayWrite (i : Instr) : Part → Prop
  | .v k => mayWriteRegister k i
  | .i => (∃ nnn, i = .ldI nnn) ∨ (∃ x, i = .addI x) ∨ ∃ x, i = .ldF x
  | .pc => i = .ret ∨ (∃ nnn, i = .jp nnn) ∨ (∃ nnn, i = .call nnn) ∨ (∃ nnn, i = .jpV0 nnn) ∨
      (∃ x kk, i = .seImm x kk) ∨ (∃ x kk, i = .sneImm x kk) ∨ (∃ x y, i = .seReg x y) ∨ (∃ x y, i = .sneReg x y) ∨
      (∃ x, i = .skp x) ∨ (∃ x, i = .sknp x) ∨ ∃ x, i = .ldVxK x
  | .slot _ => ∃ nnn, i = .call nnn
  | .sp => i = .ret ∨ ∃ nnn, i = .call nnn
  | .dt => ∃ x, i = .ldDtVx x
  | .st => ∃ x, i = .ldStVx x
  | .byte _ => (∃ x, i = .ldB x) ∨ ∃ x, i = .storeRegs x
  | .fb | .redraw => i = .cls ∨ ∃ x y n, i = .drw x y n
  | .keys => False
  | .run => i = .halt
  | .draws => ∃ x kk, i = .rnd x kk

/-- An instruction that raises no fault writes only pieces it may write. -/
theorem mayWrite_of_mem_writes {i : Instr} {s : State} {w : Write} (h : w ∈ writes i s) : mayWrite i w.part := by
  revert w
  cases i
  case ldB x | storeRegs x =>
    intro w hw
    obtain ⟨k, hk, rfl⟩ := mem_byteWrites.1 hw
    simp [Write.part, mayWrite]
  case loadRegs x =>
    simp [writes, registerWrites, Write.part, mayWrite, mayWriteRegister]
  case ldVxK x =>
    rw [writes]
    cases s.lowestKey <;> simp [Write.part, mayWrite, mayWriteRegister]
  all_goals simp [writes, skipWrite, Write.part, mayWrite, mayWriteRegister]

/-- A piece that is not RUN differs after an instruction only if the instruction may write it. -/
theorem exec_differs {i : Instr} {s t : State} (h : exec i s = .next t) {p : Part} (hp : p ≠ .run) (hne : ¬ p.same s t) :
    mayWrite i p := by
  obtain rfl : s.applyAll (effects i s) = t := Host.Outcome.next.inj ((exec_eq i s).symm.trans h)
  have hmem : p ∈ (effects i s).map Write.part := by
    by_contra hout
    exact hne (changesOnly_iff.1 (s.applyAll_changesOnly _) p hout)
  cases hc : faultCondition i s with
  | some k =>
    rw [effects_of_fault hc] at hmem
    exact absurd (List.mem_singleton.1 hmem) hp
  | none =>
    rw [effects_of_no_fault hc] at hmem
    obtain ⟨w, hw, rfl⟩ := List.mem_map.1 hmem
    exact mayWrite_of_mem_writes hw

/-! ### How an instruction changes RUN -/

/-- An instruction whose fault condition does not hold keeps RUN unless it is HALT (R107). -/
theorem exec_run_of_no_fault {i : Instr} {s t : State} (h : exec i s = .next t) (hc : faultCondition i s = none)
    (hi : i ≠ .halt) : t.run = s.run := by
  obtain rfl : s.applyAll (writes i s) = t := Host.Outcome.next.inj ((exec_of_no_fault hc).symm.trans h)
  refine (s.applyAll_changesOnly _).run fun hmem => ?_
  obtain ⟨w, hw, hpart⟩ := List.mem_map.1 hmem
  have hmay := mayWrite_of_mem_writes hw
  rw [hpart] at hmay
  exact hi hmay

/-- Everything an instruction can do to RUN (R105, R107, R231). -/
theorem exec_run_cases {i : Instr} {s t : State} (h : exec i s = .next t) :
    (∃ k, t = s.raise k) ∨ (i = .halt ∧ t.run = .halted s.instrAddress) ∨ t.run = s.run := by
  cases hc : faultCondition i s with
  | some k => exact .inl ⟨k, (Host.Outcome.next.inj ((exec_of_fault hc).symm.trans h)).symm⟩
  | none =>
    by_cases hi : i = .halt
    · subst hi
      obtain rfl : s.halt = t := Host.Outcome.next.inj h
      exact .inr (.inl ⟨rfl, rfl⟩)
    · exact .inr (.inr (exec_run_of_no_fault h hc hi))

/-- Settles O46: a piece that differs was written, so the instruction may write it; REDRAW and RUN by what can be written
there. -/
theorem eachPieceOfStateIsWrittenOnlyByItsInstructions : Obligations.EachPieceOfStateIsWrittenOnlyByItsInstructions := by
  intro i s t h
  refine ⟨fun k hk => ?v, fun hi => ?i, fun hpc => ?pc, fun hstack => ?stack, fun hsp => ?sp, fun hdt => ?dt, fun hst => ?st,
    fun ⟨a, ha⟩ => ?byte, fun hfb => ?fb, fun hredraw => ⟨?redrawSet, ?redraw⟩, ?keys, fun hrun => ?run, fun hdraws => ?draws⟩
  case v => exact exec_differs h (p := .v k) (by simp) hk
  case i => exact exec_differs h (p := .i) (by simp) hi
  case pc => exact exec_differs h (p := .pc) (by simp) hpc
  case stack =>
    obtain ⟨k, hk⟩ : ∃ k, t.stack[k]? ≠ s.stack[k]? := by
      by_contra hall
      push Not at hall
      exact hstack (stack_eq_of_getElem?_eq hall)
    exact exec_differs h (p := .slot k) (by simp) hk
  case sp => exact exec_differs h (p := .sp) (by simp) hsp
  case dt => exact exec_differs h (p := .dt) (by simp) hdt
  case st => exact exec_differs h (p := .st) (by simp) hst
  case byte => exact exec_differs h (p := .byte a) (by simp) ha
  case fb => exact exec_differs h (p := .fb) (by simp) hfb
  case redrawSet => exact (exec_redraw h).resolve_left hredraw
  case redraw => exact exec_differs h (p := .redraw) (by simp) hredraw
  case keys =>
    by_contra hkeys
    exact exec_differs h (p := .keys) (by simp) hkeys
  case run =>
    obtain ⟨k, rfl⟩ | ⟨hi, hhalted⟩ | hkept := exec_run_cases h
    · exact .inr ⟨k, rfl⟩
    · exact .inl ⟨hhalted, hi⟩
    · exact absurd hkept hrun
  case draws => exact exec_differs h (p := .draws) (by simp) hdraws

/-- Settles O47: the clause for the registers of the rule of what may be written. -/
theorem registersChangeOnlyAsDestinationsOrFlag : Obligations.RegistersChangeOnlyAsDestinationsOrFlag := by
  intro i s t k h hk
  exact exec_differs h (p := .v k) (by simp) hk

/-- Settles O48: by whether the fault condition holds. -/
theorem instructionsFaultExactlyOnTheirCondition : Obligations.InstructionsFaultExactlyOnTheirCondition := by
  intro i s
  refine ⟨_, exec_eq i s, fun k hk => ?fault, fun hc hi => exec_run_of_no_fault (exec_eq i s) hc hi⟩
  case fault =>
    rw [effects_of_fault hk]
    exact ⟨rfl, s.raise_changesOnly k⟩

/-! ### Host operations and schedules -/

/-- Settles O9: a step is its writes, and the other operations answer a next state as they stand. -/
theorem everyHostOperationAnswersNextState : Obligations.EveryHostOperationAnswersNextState := by
  intro o s
  cases o with
  | step => exact ⟨_, step_eq s⟩
  | tickTimers | setKeys | clearRedraw => exact ⟨_, rfl⟩

/-- A schedule's first operation and its rest (R243). -/
theorem runSchedule_cons {o : HostOp} {s t : State} (os : List HostOp) (h : hostOp o s = .next t) :
    runSchedule (o :: os) s = runSchedule os t := by
  rw [runSchedule, h]

/-- Every schedule answers a next state. -/
theorem runSchedule_total (os : List HostOp) (s : State) : ∃ t, runSchedule os s = .next t := by
  induction os generalizing s with
  | nil => exact ⟨s, rfl⟩
  | cons o os ih =>
    obtain ⟨t, ht⟩ := everyHostOperationAnswersNextState o s
    rw [runSchedule_cons os ht]
    exact ih t

/-- What every host operation keeps, every schedule keeps. -/
theorem runSchedule_keeps {P : State → Prop} (hop : ∀ o s t, P s → hostOp o s = .next t → P t) {os : List HostOp}
    {s t : State} (hs : P s) (h : runSchedule os s = .next t) : P t := by
  induction os generalizing s with
  | nil =>
    obtain rfl : s = t := Host.Outcome.next.inj h
    exact hs
  | cons o os ih =>
    obtain ⟨u, hu⟩ := everyHostOperationAnswersNextState o s
    rw [runSchedule_cons os hu] at h
    exact ih (hop o s u hs hu) h

/-- A state a step leaves as it is stays so for any number of steps. -/
theorem runSchedule_replicate_of_fixed {s : State} (h : step s = .next s) (n : Nat) :
    runSchedule (List.replicate n .step) s = .next s := by
  induction n with
  | zero => rfl
  | succ n ih => rw [List.replicate_succ, runSchedule_cons (o := .step) _ h, ih]

/-- A push of the keys changes KEYS alone (R244). -/
theorem State.setKeys_changesOnly (s : State) (k : Vector Bool 16) : ChangesOnly [.keys] s (s.setKeys k) := by
  constructor
  case keys => simp
  all_goals intros; rfl

/-- Settles O38: the operation is one write of KEYS. -/
theorem setKeysReplacesAllFlags : Obligations.SetKeysReplacesAllFlags := by
  intro k s
  have hpush : hostOp (.setKeys k) s = .next (s.setKeys k) := rfl
  exact ⟨_, hpush, rfl, s.setKeys_changesOnly k⟩

/-! ### Ended runs -/

/-- After the end of a run a host operation changes KEYS and REDRAW alone (D22). -/
theorem hostOp_of_ended {o : HostOp} {s t : State} (hend : s.run ≠ .running) (h : hostOp o s = .next t) :
    ChangesOnly [.keys, .redraw] s t := by
  cases o with
  | step =>
    obtain rfl : s = t := Host.Outcome.next.inj ((step_of_ended hend).symm.trans h)
    exact .refl _ s
  | tickTimers =>
    obtain rfl : s.tickTimers = t := Host.Outcome.next.inj h
    rw [State.tickTimers_of_ended hend]
    exact .refl _ s
  | setKeys k =>
    obtain rfl : s.setKeys k = t := Host.Outcome.next.inj h
    exact (s.setKeys_changesOnly k).mono (by simp)
  | clearRedraw =>
    obtain rfl : s.clearRedraw = t := Host.Outcome.next.inj h
    exact s.clearRedraw_changesOnly.mono (by simp)

/-- Settles O50: every operation keeps the frame of KEYS and REDRAW, within which RUN stays ended. -/
theorem endedRunIsFinalUnderEverySchedule : Obligations.EndedRunIsFinalUnderEverySchedule := by
  intro os s hend
  obtain ⟨t, ht⟩ := runSchedule_total os s
  have hframe : ChangesOnly [.keys, .redraw] s t := by
    refine runSchedule_keeps (P := ChangesOnly [.keys, .redraw] s) (fun o u w hu hw => ?_) (.refl _ s) ht
    have hrun : u.run ≠ .running := by
      rw [hu.run (by simp)]
      exact State.run_ne_running_of_ended hend
    exact hu.trans (hostOp_of_ended hrun hw)
  exact ⟨t, ht, hframe.run (by simp), hframe.pc (by simp), hframe.dt (by simp), hframe.st (by simp), hframe⟩

/-- Settles O49: the fault is the fetch's, dispatch's or a handler's, and each leaves its state as `faultAt` or as `raise` of the
advanced state. -/
theorem stepFaultsArePreciseAndFinal : Obligations.StepFaultsArePreciseAndFinal := by
  intro s t k a hrun h hfault
  have hfinal : ∀ n : Nat, runSchedule (List.replicate n .step) t = .next t :=
    runSchedule_replicate_of_fixed (step_of_ended (by simp [hfault]))
  have hraised : ∀ k', t = s.advance.raise k' →
      a = s.pc ∧ ChangesOnly [.run, .pc] s t ∧ (t.pc = s.pc ∨ t.pc = s.pc + 2) ∧ (t.pc = s.pc → k = .outOfBounds) := by
    rintro k' rfl
    obtain ⟨-, rfl⟩ : k' = k ∧ s.pc = a := by simpa using hfault
    have hadv : ChangesOnly [.run, .pc] s s.advance := s.advance_changesOnly.mono (by simp)
    have hraise : ChangesOnly [.run, .pc] s.advance (s.advance.raise k') := (s.advance.raise_changesOnly _).mono (by simp)
    have hne : s.pc + 2 ≠ s.pc := by bv_omega
    exact ⟨rfl, hadv.trans hraise, .inr rfl, fun hpc => absurd hpc hne⟩
  obtain ⟨hended, -⟩ | ⟨-, -, rfl⟩ | ⟨-, -, -, ht⟩ | ⟨-, -, i, -, hexec⟩ := step_cases h
  · exact absurd hrun hended
  · obtain ⟨rfl, rfl⟩ : FaultKind.outOfBounds = k ∧ s.pc = a := by simpa using hfault
    exact ⟨rfl, (s.faultAt_changesOnly _ _).mono (by simp), .inl rfl, fun _ => rfl, hfinal⟩
  · obtain ⟨ha, hframe, hpc, hkind⟩ := hraised _ ht
    exact ⟨ha, hframe, hpc, hkind, hfinal⟩
  · obtain ⟨k', ht⟩ | ⟨-, hhalted⟩ | hkept := exec_run_cases hexec
    · obtain ⟨ha, hframe, hpc, hkind⟩ := hraised _ ht
      exact ⟨ha, hframe, hpc, hkind, hfinal⟩
    · simp [hhalted] at hfault
    · simp [hkept, hrun] at hfault

end Sys2Proof.Machine

/-! ## Proofs: invariants (20_memory.md, 10_state.md R24)

An invariant is kept by a list of writes when each write keeps it; a step keeps it because each of its writes does. -/

namespace Sys2Proof.Machine

/-! ### Memory stays canonical -/

/-- The write is not to a byte past 0xFFF (R57). -/
def Write.inMemory : Write → Prop
  | .byte a _ => a ≤ Config.addrMax
  | _ => True

theorem State.applyAll_keeps_memoryCanonical {s : State} {ws : List Write} (hws : ∀ w ∈ ws, w.inMemory)
    (hs : MemoryCanonical s) : MemoryCanonical (s.applyAll ws) := by
  induction ws generalizing s with
  | nil => exact hs
  | cons w ws ih =>
    obtain ⟨hw, hws⟩ := List.forall_mem_cons.1 hws
    refine ih hws ?_
    cases w with
    | byte a b => exact Memory.wf_write hs hw b
    | v | i | pc | slot | sp | dt | st | fb | redraw | run | draws => exact hs

/-- A block of bytes that passes the bounds check is written in memory. -/
theorem byteWrites_inMemory {a n : Nat} {us : List Byte} (hlen : us.length = n + 1) (ha : a + n ≤ 0xFFF) :
    ∀ w ∈ byteWrites a us, w.inMemory := by
  intro w hw
  obtain ⟨k, hk, rfl⟩ := mem_byteWrites.1 hw
  show a + k ≤ 0xFFF
  omega

@[simp] theorem State.length_registersTo (s : State) (x : RegIndex) : (s.registersTo x).length = x.val + 1 := by
  simp [State.registersTo]

/-- The blocks LD B and LD [I] write lie in memory when they raise no fault (R56, R199, R200). -/
theorem writes_inMemory {i : Instr} {s : State} (h : faultCondition i s = none) : ∀ w ∈ writes i s, w.inMemory := by
  cases i
  case ldB x => exact byteWrites_inMemory rfl (faultCondition_ldB_eq_none.1 h)
  case storeRegs x => exact byteWrites_inMemory (s.length_registersTo x) (faultCondition_storeRegs_eq_none.1 h)
  case loadRegs x => simp [writes, registerWrites, Write.inMemory]
  case ldVxK x =>
    rw [writes]
    cases s.lowestKey <;> simp [Write.inMemory]
  all_goals simp [writes, skipWrite, Write.inMemory]

theorem effects_inMemory (i : Instr) (s : State) : ∀ w ∈ effects i s, w.inMemory := by
  cases h : faultCondition i s with
  | some k => simp [effects_of_fault h, Write.inMemory]
  | none =>
    rw [effects_of_no_fault h]
    exact writes_inMemory h

/-- What holds of the advance, of the faults of fetch and dispatch, and of every instruction's writes in the advanced state
holds of every write of a step. -/
theorem forall_mem_stepWrites {P : Write → Prop} {s : State}
    (hfault : ∀ k, P (.run (.faulted k s.pc))) (hadv : s.pc.toNat + 1 ≤ 0xFFF → P (.pc (s.pc + 2)))
    (hexec : ∀ i, s.pc.toNat + 1 ≤ 0xFFF → ∀ w ∈ effects i s.advance, P w) : ∀ w ∈ stepWrites s, P w := by
  unfold stepWrites
  split
  next =>
    split
    next hpc =>
      refine List.forall_mem_cons.2 ⟨hadv hpc, ?_⟩
      cases decodeOpcode s.opcodeAtPc with
      | error e => simpa using hfault _
      | ok i => exact hexec i hpc
    next => simpa using hfault _
  next => simp

theorem stepWrites_inMemory (s : State) : ∀ w ∈ stepWrites s, w.inMemory :=
  forall_mem_stepWrites (fun _ => trivial) (fun _ => trivial) fun i _ => effects_inMemory i s.advance

/-- Settles O55: every write of a step to memory is in bounds. -/
theorem stepKeepsMemoryCanonical : Obligations.StepKeepsMemoryCanonical := by
  intro s t hs h
  obtain rfl : s.applyAll (stepWrites s) = t := Host.Outcome.next.inj ((step_eq s).symm.trans h)
  exact State.applyAll_keeps_memoryCanonical (stepWrites_inMemory s) hs

/-! ### pc and the return addresses stay bounded -/

/-- The write is within the bound on pc and on the return addresses (R24). -/
def Write.bounded : Write → Prop
  | .pc w => w.toNat ≤ 0x10FE
  | .slot _ w => w.toNat ≤ 0x1000
  | _ => True

theorem State.applyAll_keeps_pcAndStackBounded {s : State} {ws : List Write} (hws : ∀ w ∈ ws, w.bounded)
    (hs : PcAndStackBounded s) : PcAndStackBounded (s.applyAll ws) := by
  induction ws generalizing s with
  | nil => exact hs
  | cons w ws ih =>
    obtain ⟨hw, hws⟩ := List.forall_mem_cons.1 hws
    refine ih hws ?_
    obtain ⟨hpc, hstack⟩ := hs
    cases w with
    | pc w => exact ⟨hw, hstack⟩
    | slot j w =>
      refine ⟨hpc, fun k => ?_⟩
      show ((s.stack.setIfInBounds j w)[k.val]).toNat ≤ 0x1000
      rw [Vector.getElem_setIfInBounds]
      split
      · exact hw
      · exact hstack k
    | v | i | sp | dt | st | byte | fb | redraw | run | draws => exact ⟨hpc, hstack⟩

/-- A skip writes pc or pc + 2. -/
theorem skipWrite_bounded {s : State} (hpc : s.pc.toNat ≤ 0x1000) (c : Bool) : (skipWrite s c).bounded := by
  show (if c then s.pc + 2 else s.pc).toNat ≤ 0x10FE
  split
  · bv_omega
  · omega

/-- In the state a handler runs in, pc being A + 2 with A ≤ 0xFFE, an instruction writes no pc above 0x10FE and no return address
above 0x1000: JP V0 brings the largest pc, 0xFF + 0xFFF (R24, R102). -/
theorem writes_bounded (i : Instr) {s : State} (htwo : 2 ≤ s.pc.toNat) (hpc : s.pc.toNat ≤ 0x1000)
    (hstack : ∀ k : Fin 16, s.stack[k.val].toNat ≤ 0x1000) : ∀ w ∈ writes i s, w.bounded := by
  have haddr : ∀ nnn : Addr12, (Write.pc (zextAddr nnn)).bounded := fun nnn => by
    have hlt : nnn.toNat < 4096 := nnn.isLt
    simp only [Write.bounded, toNat_zextAddr]
    omega
  cases i
  case ret =>
    have hslot : (s.stack[s.sp.val - 1]?.getD 0).toNat ≤ 0x10FE := by
      have hlt : s.sp.val - 1 < 16 := by omega
      have hle := hstack ⟨s.sp.val - 1, hlt⟩
      rw [Vector.getElem?_eq_getElem hlt, Option.getD_some]
      exact hle.trans (by decide)
    simpa [writes, Write.bounded] using hslot
  case jp nnn => simpa [writes] using haddr nnn
  case call nnn => simpa [writes, Write.bounded, hpc] using haddr nnn
  case jpV0 nnn =>
    have hsum : (zextByte (s.getV 0) + zextAddr nnn).toNat ≤ 0x10FE := by
      have hv0 : (s.getV 0).toNat < 256 := (s.getV 0).isLt
      have hlt : nnn.toNat < 4096 := nnn.isLt
      rw [toNat_zextByte_add_zextAddr]
      omega
    rw [writes, List.forall_mem_singleton]
    exact hsum
  case seImm | sneImm | seReg | sneReg | skp | sknp =>
    simpa only [writes, List.forall_mem_singleton] using skipWrite_bounded hpc _
  case ldVxK x =>
    have hrewind : (s.pc - 2).toNat ≤ 0x10FE := by bv_omega
    rw [writes, List.forall_mem_singleton]
    cases s.lowestKey with
    | some k => trivial
    | none => exact hrewind
  case ldB x | storeRegs x =>
    intro w hw
    obtain ⟨k, hk, rfl⟩ := mem_byteWrites.1 hw
    trivial
  case loadRegs x => simp [writes, registerWrites, Write.bounded]
  all_goals simp [writes, Write.bounded]

theorem effects_bounded (i : Instr) {s : State} (htwo : 2 ≤ s.pc.toNat) (hpc : s.pc.toNat ≤ 0x1000)
    (hstack : ∀ k : Fin 16, s.stack[k.val].toNat ≤ 0x1000) : ∀ w ∈ effects i s, w.bounded := by
  cases h : faultCondition i s with
  | some k => simp [effects_of_fault h, Write.bounded]
  | none =>
    rw [effects_of_no_fault h]
    exact writes_bounded i htwo hpc hstack

/-- Settles O57: every write of a step to pc and to a stack slot is within the bound. -/
theorem stepKeepsPcAndStackBounded : Obligations.StepKeepsPcAndStackBounded := by
  rintro s t ⟨hbound, hstack⟩ h
  obtain rfl : s.applyAll (stepWrites s) = t := Host.Outcome.next.inj ((step_eq s).symm.trans h)
  refine State.applyAll_keeps_pcAndStackBounded ?_ ⟨hbound, hstack⟩
  refine forall_mem_stepWrites (fun _ => trivial) (fun hpc => ?advance) fun i hpc => ?handler
  case advance =>
    have hadv : s.advance.pc.toNat = s.pc.toNat + 2 := State.toNat_advance_pc hpc
    show s.advance.pc.toNat ≤ 0x10FE
    omega
  case handler =>
    have hadv : s.advance.pc.toNat = s.pc.toNat + 2 := State.toNat_advance_pc hpc
    exact effects_bounded i (by omega) (by omega) hstack

/-! ### After construction, and from a boot -/

/-- Settles O54: memory lists no cell after construction. -/
theorem memoryIsCanonicalAtReset : Obligations.MemoryIsCanonicalAtReset :=
  Memory.wf_nil

/-- Settles O56: pc is the program origin and every slot 0. -/
theorem pcAndStackAreBoundedAtReset : Obligations.PcAndStackAreBoundedAtReset := by
  refine ⟨by decide, fun k => ?_⟩
  show ((Vector.replicate 16 (0 : Word))[k.val]).toNat ≤ 0x1000
  simp

/-- Every host operation keeps both invariants: ticks, key pushes and redraw clears touch neither memory, pc nor the stack. -/
theorem hostOp_keeps_invariants {o : HostOp} {s t : State} (hs : MemoryCanonical s ∧ PcAndStackBounded s)
    (h : hostOp o s = .next t) : MemoryCanonical t ∧ PcAndStackBounded t := by
  obtain ⟨hmem, hbound⟩ := hs
  cases o with
  | step => exact ⟨stepKeepsMemoryCanonical s t hmem h, stepKeepsPcAndStackBounded s t hbound h⟩
  | tickTimers =>
    obtain rfl : s.tickTimers = t := Host.Outcome.next.inj h
    by_cases hrun : s.run = .running
    · rw [State.tickTimers_of_running hrun]
      exact ⟨hmem, hbound⟩
    · rw [State.tickTimers_of_ended hrun]
      exact ⟨hmem, hbound⟩
  | setKeys k =>
    obtain rfl : s.setKeys k = t := Host.Outcome.next.inj h
    exact ⟨hmem, hbound⟩
  | clearRedraw =>
    obtain rfl : s.clearRedraw = t := Host.Outcome.next.inj h
    exact ⟨hmem, hbound⟩

/-- A program of at most 3584 bytes is written from 0x200 (R261). -/
theorem State.load_of_fits {p : List Byte} (s : State) (h : p.length ≤ 3584) :
    s.load p = .next { s with mem := s.mem.writeBytes Config.programOrigin p } := by
  rw [State.load, if_neg]
  simp only [Config.programOrigin_eq, Config.memSize_eq]
  omega

/-- A longer one is refused (D24). -/
theorem State.load_of_too_large {p : List Byte} (s : State) (h : 3584 < p.length) :
    s.load p = .refused (.programTooLarge p.length) := by
  rw [State.load, if_pos]
  simp only [Config.programOrigin_eq, Config.memSize_eq]
  omega

/-- Settles O58: both invariants hold after construction and the load's writes in bounds, and every operation keeps them. -/
theorem everyScheduleFromBootKeepsTheInvariants : Obligations.EveryScheduleFromBootKeepsTheInvariants := by
  intro p os s t hboot h
  refine runSchedule_keeps (P := fun s => MemoryCanonical s ∧ PcAndStackBounded s)
    (fun o s t hs hop => hostOp_keeps_invariants hs hop) ?booted h
  case booted =>
    by_cases hfits : p.length ≤ 3584
    · obtain rfl := Host.Outcome.next.inj ((State.load_of_fits State.reset hfits).symm.trans hboot)
      refine ⟨Memory.wf_writeBytes memoryIsCanonicalAtReset ?_, pcAndStackAreBoundedAtReset⟩
      rw [inBounds_iff, Config.programOrigin_eq]
      omega
    · rw [boot, State.load_of_too_large _ (by omega)] at hboot
      cases hboot

end Sys2Proof.Machine

/-! ## Proofs: what an instruction reads (R28, R37, R56, R57; decision D33)

Two states that agree on what an instruction can read make the same writes: ST, REDRAW, the stack slots at SP and above and the
bytes past 0xFFF are read by none. -/

namespace Sys2Proof.Machine

/-- The two states agree on everything a step can read: the bytes of memory up to 0xFFF, the slots below SP, and every other piece
but ST and REDRAW. -/
structure ReadsAlike (s s' : State) : Prop where
  v : s'.v = s.v
  i : s'.i = s.i
  pc : s'.pc = s.pc
  sp : s'.sp = s.sp
  slot : ∀ k : Nat, k < s.sp.val → s'.stack[k]? = s.stack[k]?
  dt : s'.dt = s.dt
  mem : ∀ a, a ≤ 0xFFF → s'.mem.read a = s.mem.read a
  fb : s'.fb = s.fb
  keys : s'.keys = s.keys
  run : s'.run = s.run
  draws : s'.draws = s.draws

section
variable {s s' : State} (h : ReadsAlike s s')
include h

theorem ReadsAlike.getV (x : RegIndex) : s'.getV x = s.getV x := by
  rw [State.getV, h.v, State.getV]

theorem ReadsAlike.advance : ReadsAlike s.advance s'.advance where
  v := h.v
  i := h.i
  pc := by rw [State.advance_pc, State.advance_pc, h.pc]
  sp := h.sp
  slot := h.slot
  dt := h.dt
  mem := h.mem
  fb := h.fb
  keys := h.keys
  run := h.run
  draws := h.draws

theorem ReadsAlike.lowestKey : s'.lowestKey = s.lowestKey := by
  rw [State.lowestKey, h.keys, State.lowestKey]

/-- A fetch that succeeds reads the same opcode. -/
theorem ReadsAlike.opcodeAtPc (hpc : s.pc.toNat + 1 ≤ 0xFFF) : s'.opcodeAtPc = s.opcodeAtPc := by
  rw [State.opcodeAtPc, State.opcodeAtPc, h.pc, h.mem _ (by omega), h.mem _ hpc]

/-- A sprite in memory has the same bytes. -/
theorem ReadsAlike.drawSprite (x y : RegIndex) {n : Nat} (hn : n = 0 ∨ s.i.toNat + n - 1 ≤ 0xFFF) :
    s'.drawSprite x y n = s.drawSprite x y n := by
  have hsprite : s'.sprite n = s.sprite n := by
    simp only [State.sprite, State.effectiveAddress_zero, Memory.readBytes, h.i]
    refine List.map_congr_left fun k hk => h.mem _ ?_
    rw [List.mem_range] at hk
    omega
  simp only [State.drawSprite, h.getV, h.fb, hsprite]

theorem ReadsAlike.faultCondition (i : Instr) : faultCondition i s' = faultCondition i s := by
  cases i <;> simp only [Machine.faultCondition, h.sp, h.i, h.getV]

theorem ReadsAlike.writes {i : Instr} (hc : Machine.faultCondition i s = none) : writes i s' = writes i s := by
  cases i
  case ret =>
    have hpos := faultCondition_ret_eq_none.1 hc
    simp only [Machine.writes, h.sp, h.slot _ (Nat.sub_lt hpos Nat.one_pos)]
  case drw x y n => simp only [Machine.writes, h.drawSprite x y (faultCondition_drw_eq_none.1 hc)]
  case loadRegs x =>
    have hle := faultCondition_loadRegs_eq_none.1 hc
    simp only [Machine.writes, registerWrites]
    refine List.map_congr_left fun k hk => ?_
    have hkx : k.val ≤ x.val := mem_registersUpTo.1 hk
    rw [h.i, h.mem (s.i.toNat + k.val) (by omega)]
  case rnd x kk => simp only [Machine.writes, State.randomByte, h.draws]
  case halt => simp only [Machine.writes, State.instrAddress, h.pc]
  case storeRegs x => simp only [Machine.writes, State.registersTo, h.i, h.v]
  case ldVxK x => simp only [Machine.writes, h.lowestKey, h.pc]
  all_goals simp only [Machine.writes, skipWrite, h.pc, h.sp, h.getV, h.i, h.dt, h.keys]

theorem ReadsAlike.effects (i : Instr) : effects i s' = effects i s := by
  cases hc : Machine.faultCondition i s with
  | some k =>
    have hc' : Machine.faultCondition i s' = some k := (h.faultCondition i).trans hc
    rw [effects_of_fault hc, effects_of_fault hc', State.instrAddress, h.pc, State.instrAddress]
  | none =>
    have hc' : Machine.faultCondition i s' = none := (h.faultCondition i).trans hc
    rw [effects_of_no_fault hc, effects_of_no_fault hc', h.writes hc]

/-- States that agree on what a step can read make the same writes in it. -/
theorem ReadsAlike.stepWrites : stepWrites s' = stepWrites s := by
  unfold Machine.stepWrites
  rw [h.run, h.pc]
  by_cases hpc : s.pc.toNat + 1 ≤ 0xFFF
  · rw [if_pos hpc, if_pos hpc, h.opcodeAtPc hpc]
    simp only [h.advance.effects]
  · rw [if_neg hpc, if_neg hpc]

end

/-- What a write does to the pieces outside memory does not depend on memory. -/
theorem Write.apply_withMem (w : Write) (s : State) (m : Memory) :
    ∃ m', w.apply { s with mem := m } = { w.apply s with mem := m' } := by
  cases w with
  | byte a b => exact ⟨m.write a b, rfl⟩
  | v | i | pc | slot | sp | dt | st | fb | redraw | run | draws => exact ⟨m, rfl⟩

/-- What a list of writes does to the pieces outside memory does not depend on memory. -/
theorem State.applyAll_withMem (s : State) (m : Memory) (ws : List Write) :
    ∃ m', State.applyAll { s with mem := m } ws = { s.applyAll ws with mem := m' } := by
  induction ws generalizing s m with
  | nil => exact ⟨m, rfl⟩
  | cons w ws ih =>
    obtain ⟨m', hm'⟩ := w.apply_withMem s m
    rw [State.applyAll_cons, State.applyAll_cons, hm']
    exact ih (w.apply s) m'

/-- Settles O60: both states make the same writes, all in memory; so the pieces that were the same stay the same, and no byte
above 0xFFF is written. -/
theorem bytesOutsideMemoryAreNeitherReadNorWritten : Obligations.BytesOutsideMemoryAreNeitherReadNorWritten := by
  intro s m hm
  have halike : ReadsAlike s { s with mem := m } :=
    { v := rfl, i := rfl, pc := rfl, sp := rfl, slot := fun _ _ => rfl, dt := rfl, mem := hm, fb := rfl, keys := rfl,
      run := rfl, draws := rfl }
  have hstep : step { s with mem := m } = .next (State.applyAll { s with mem := m } (stepWrites s)) := by
    rw [step_eq, halike.stepWrites]
  refine ⟨_, _, step_eq s, hstep, ?others, fun a ha => ?inside, fun a ha => ?outside⟩
  case others =>
    obtain ⟨m', hm'⟩ := s.applyAll_withMem m (stepWrites s)
    rw [hm']
  case inside => exact Part.same_applyAll (p := .byte a) _ (.inl (hm a ha))
  case outside =>
    have hout : Part.byte a ∉ (stepWrites s).map Write.part := by
      intro hmem
      obtain ⟨w, hw, hpart⟩ := List.mem_map.1 hmem
      have hin := stepWrites_inMemory s w hw
      cases w with
      | byte b u =>
        obtain rfl : b = a := Part.byte.inj hpart
        exact absurd hin (Nat.not_le.2 ha)
      | v | i | pc | slot | sp | dt | st | fb | redraw | run | draws => cases hpart
    exact ⟨(State.applyAll_changesOnly _ _).byte a hout, (State.applyAll_changesOnly _ _).byte a hout⟩

/-! ### What a program cannot observe -/

/-- A program can observe the piece `p` of `s`, now or later: every piece but ST, REDRAW and the slots at SP and above (D33). -/
def Part.visible (s : State) : Part → Prop
  | .slot k => k < s.sp.val
  | .st | .redraw => False
  | _ => True

theorem SameToProgram.of_visible {s t : State} (h : ∀ p : Part, p.visible s → p.same s t) : SameToProgram s t where
  v := v_eq_of_getV_eq fun k => h (.v k) trivial
  i := h .i trivial
  pc := h .pc trivial
  sp := h .sp trivial
  slot k hk := h (.slot k) hk
  dt := h .dt trivial
  mem a := h (.byte a) trivial
  fb := h .fb trivial
  keys := h .keys trivial
  run := h .run trivial
  draws := h .draws trivial

theorem SameToProgram.same {s t : State} (h : SameToProgram s t) {p : Part} (hp : p.visible s) : p.same s t := by
  cases p with
  | v k =>
    show t.v[k.val] = s.v[k.val]
    rw [h.v]
  | i => exact h.i
  | pc => exact h.pc
  | slot k => exact h.slot k hp
  | sp => exact h.sp
  | dt => exact h.dt
  | st => exact hp.elim
  | byte a => exact h.mem a
  | fb => exact h.fb
  | redraw => exact hp.elim
  | keys => exact h.keys
  | run => exact h.run
  | draws => exact h.draws

/-- A slot below SP after an instruction was below it before, or the instruction, a CALL, wrote it (R122). -/
theorem effects_slot_below_sp {i : Instr} {s : State} {k : Nat} (hk : k < (s.applyAll (effects i s)).sp.val) :
    k < s.sp.val ∨ Part.slot k ∈ (effects i s).map Write.part := by
  by_cases hsp : (s.applyAll (effects i s)).sp = s.sp
  · exact .inl (hsp ▸ hk)
  cases hc : faultCondition i s with
  | some _ =>
    rw [effects_of_fault hc] at hsp
    exact absurd rfl hsp
  | none =>
    obtain rfl | ⟨nnn, rfl⟩ : mayWrite i .sp := exec_differs (exec_eq i s) (p := .sp) (by simp) hsp
    case inl =>
      have hpos := faultCondition_ret_eq_none.1 hc
      have hpop : s.applyAll (effects .ret s) = s.popReturn hpos :=
        Host.Outcome.next.inj ((exec_eq .ret s).symm.trans (exec_ret_of_pos hpos))
      rw [hpop, State.popReturn_sp] at hk
      exact .inl (by omega)
    case inr =>
      have hroom := faultCondition_call_eq_none.1 hc
      have hpush : s.applyAll (effects (.call nnn) s) = (s.pushReturn hroom).setPc (zextAddr nnn) :=
        Host.Outcome.next.inj ((exec_eq _ s).symm.trans (exec_call_of_room nnn hroom))
      rw [hpush, State.setPc_sp, State.pushReturn_sp] at hk
      obtain hlt | rfl := Nat.lt_succ_iff_lt_or_eq.1 hk
      · exact .inl hlt
      · exact .inr (by simp [effects_of_no_fault hc, writes, Write.part])

theorem stepWrites_slot_below_sp {s : State} {k : Nat} (hk : k < (s.applyAll (stepWrites s)).sp.val) :
    k < s.sp.val ∨ Part.slot k ∈ (stepWrites s).map Write.part := by
  unfold stepWrites at hk ⊢
  by_cases hrun : s.run = .running
  · rw [if_pos hrun] at hk ⊢
    by_cases hpc : s.pc.toNat + 1 ≤ 0xFFF
    · rw [if_pos hpc] at hk ⊢
      cases hdec : decodeOpcode s.opcodeAtPc with
      | error e =>
        rw [hdec] at hk
        exact .inl hk
      | ok i =>
        rw [hdec] at hk
        exact (effects_slot_below_sp (s := s.advance) hk).imp_right (List.mem_cons_of_mem _)
    · rw [if_neg hpc] at hk
      exact .inl hk
  · rw [if_neg hrun] at hk
    exact .inl hk

/-- A step of two states that differ at most in what a program cannot observe: the writes are the same, and a slot that comes to
lie below SP was written. -/
theorem SameToProgram.step {s s' : State} (h : SameToProgram s s') :
    SameToProgram (s.applyAll (stepWrites s)) (s'.applyAll (stepWrites s')) := by
  have halike : ReadsAlike s s' :=
    { v := h.v, i := h.i, pc := h.pc, sp := h.sp, slot := h.slot, dt := h.dt, mem := fun a _ => h.mem a, fb := h.fb,
      keys := h.keys, run := h.run, draws := h.draws }
  rw [halike.stepWrites]
  refine .of_visible fun p hp => Part.same_applyAll _ ?_
  cases p with
  | slot k => exact (stepWrites_slot_below_sp hp).imp_left fun hk => h.same hk
  | st | redraw => exact hp.elim
  | v | i | pc | sp | dt | byte | fb | keys | run | draws => exact .inl (h.same trivial)

/-- A tick lowers DT alike in both. -/
theorem SameToProgram.tickTimers {s s' : State} (h : SameToProgram s s') : SameToProgram s.tickTimers s'.tickTimers := by
  by_cases hrun : s.run = .running
  · rw [State.tickTimers_of_running hrun, State.tickTimers_of_running (h.run.trans hrun)]
    exact { h with dt := congrArg tickTimer h.dt }
  · rw [State.tickTimers_of_ended hrun, State.tickTimers_of_ended (h.run ▸ hrun)]
    exact h

/-- Every host operation keeps the relation. -/
theorem SameToProgram.hostOp {s s' : State} (h : SameToProgram s s') (o : HostOp) :
    ∃ t t', hostOp o s = .next t ∧ hostOp o s' = .next t' ∧ SameToProgram t t' := by
  cases o with
  | step => exact ⟨_, _, step_eq s, step_eq s', h.step⟩
  | tickTimers => exact ⟨_, _, rfl, rfl, h.tickTimers⟩
  | setKeys k => exact ⟨_, _, rfl, rfl, { h with keys := rfl }⟩
  | clearRedraw => exact ⟨_, _, rfl, rfl, { h with }⟩

/-- Settles O59, by induction on the schedule: every operation keeps the relation. -/
theorem hiddenStateNeverReachesTheProgram : Obligations.HiddenStateNeverReachesTheProgram := by
  intro os
  induction os with
  | nil => exact fun s s' h => ⟨s, s', rfl, rfl, h⟩
  | cons o os ih =>
    intro s s' h
    obtain ⟨t, t', ht, ht', hsame⟩ := h.hostOp o
    rw [runSchedule_cons os ht, runSchedule_cons os ht']
    exact ih t t' hsame

end Sys2Proof.Machine

/-! ## Proofs: encoding (30_encoding.md)

Every instruction's opcode has the fixed digits of its row, so it decodes to the instruction; an opcode with a row's fixed digits
is put together again from its fields. -/

namespace Sys2Proof

/-! ### From the instruction to its opcode and back -/

/-- The rows whose one operand is x, their last two digits fixed: Ex9E to Fx65. -/
theorem decodeOpcode_packDigits_selector {op y n : Fin 16} {mk : RegIndex → Instr} (x : RegIndex)
    (hrow : ⟨some op, none, some y, some n, fun f => mk f.x⟩ ∈ opcodeRowsAtoE ++ opcodeRowsF) :
    decodeOpcode (packDigits op x y n) = .ok (mk x) := by
  have hword : packDigits op x y n = BitVec.ofNat 16 (op.val * 0x1000 + y.val * 0x10 + n.val + x.val * 0x100) := by
    rw [packDigits]
    congr 1
    omega
  rw [hword]
  exact decodeOpcode_selector x rfl hrow

/-- The rows 8xy6 and 8xyE, whatever the digit y (D6). -/
theorem decodeOpcode_packDigits_shift {n : Fin 16} {mk : RegIndex → Instr} (x y : RegIndex)
    (hrow : ⟨some 0x8, none, none, some n, fun f => mk f.x⟩ ∈ opcodeRows8) :
    decodeOpcode (packDigits 0x8 x y n) = .ok (mk x) := by
  obtain ⟨hop, hx, -, hn⟩ := fieldsOf_packDigits 0x8 x y n
  have htable : ⟨some 0x8, none, none, some n, fun f => mk f.x⟩ ∈ opcodeTable Config.hasLdRegSneReg := by
    simp [opcodeTable, hrow]
  have hdec := decodeOpcode_of_row (w := packDigits 0x8 x y n) htable (by simp [OpcodeRow.matchesFields, fits, hop, hn])
  simpa only [hx] using hdec

theorem decodeOpcode_drw (x y : RegIndex) (n : Fin 16) : decodeOpcode (packDigits 0xD x y n) = .ok (.drw x y n) := by
  obtain ⟨hop, hx, hy, hn⟩ := fieldsOf_packDigits 0xD x y n
  have hrow : ⟨some 0xD, none, none, none, fun f => .drw f.x f.y f.n⟩ ∈ opcodeTable Config.hasLdRegSneReg := by
    simp [opcodeTable, opcodeRowsAtoE]
  have hdec := decodeOpcode_of_row (w := packDigits 0xD x y n) hrow (by simp [OpcodeRow.matchesFields, fits, hop])
  simpa only [hx, hy, hn] using hdec

/-- Every instruction's opcode decodes to it (R73, R74). -/
theorem decodeOpcode_encode (i : Instr) : decodeOpcode (encode i) = .ok i := by
  cases i
  case halt | cls | ret => decide
  case jp nnn => exact decodeOpcode_jp nnn
  case call nnn => exact decodeOpcode_call nnn
  case ldI nnn => exact decodeOpcode_ldI nnn
  case jpV0 nnn => exact decodeOpcode_jpV0 nnn
  case seImm x kk => exact decodeOpcode_seImm x kk
  case sneImm x kk => exact decodeOpcode_sneImm x kk
  case ldImm x kk | addImm x kk => exact decodeOpcode_packKk x kk (by simp [opcodeTable, opcodeRows0to7])
  case rnd x kk => exact decodeOpcode_packKk x kk (by simp [opcodeTable, opcodeRowsAtoE])
  case seReg x y => exact decodeOpcode_packDigits x y (by simp [opcodeTable, opcodeRows0to7])
  case ldReg x y | sneReg x y => exact decodeOpcode_packDigits x y (by simp [opcodeTable, opcodeRowsLdRegSneReg])
  case orReg x y | andReg x y | xorReg x y | addReg x y | subReg x y | subnReg x y =>
    exact decodeOpcode_packDigits x y (by simp [opcodeTable, opcodeRows8])
  case shr x | shl x => exact decodeOpcode_packDigits_shift x 0 (by simp [opcodeRows8])
  case drw x y n => exact decodeOpcode_drw x y n
  case skp x | sknp x => exact decodeOpcode_packDigits_selector x (by simp [opcodeRowsAtoE])
  all_goals exact decodeOpcode_packDigits_selector _ (by simp [opcodeRowsF])

/-- Settles O2: the two bytes form the opcode again, and the opcode decodes to the instruction. -/
theorem decodeOfEncodeIsTheInstruction : Obligations.DecodeOfEncodeIsTheInstruction := by
  intro i rest _
  rw [encodeBytes, decode_opcodeBytes, decodeOpcode_encode]
  rfl

/-- Settles O1: the words are closed, and the decoder computes. -/
theorem sampleWordsDecodeAsTheTableSays : Obligations.SampleWordsDecodeAsTheTableSays := by
  unfold Obligations.SampleWordsDecodeAsTheTableSays
  decide

/-! ### From an opcode to its instruction and back -/

/-- With 8xy0 and 9xy0 in the core every instruction is well formed (D3). -/
theorem Instr.wellFormed_eq_true (i : Instr) : i.wellFormed = true := by
  cases i <;> rfl

theorem packDigits_fieldsOf (w : Opcode) :
    packDigits (fieldsOf w).op (fieldsOf w).x (fieldsOf w).y (fieldsOf w).n = w := by
  apply BitVec.eq_of_toNat_eq
  simp only [packDigits, fieldsOf, digit, BitVec.toNat_ofNat]
  omega

theorem packKk_fieldsOf (w : Opcode) : packKk (fieldsOf w).op (fieldsOf w).x (fieldsOf w).kk = w := by
  apply BitVec.eq_of_toNat_eq
  simp only [packKk, fieldsOf, digit, BitVec.toNat_ofNat]
  omega

theorem packNnn_fieldsOf (w : Opcode) : packNnn (fieldsOf w).op (fieldsOf w).nnn = w := by
  apply BitVec.eq_of_toNat_eq
  simp only [packNnn, fieldsOf, digit, BitVec.toNat_ofNat]
  omega

/-- A recognized opcode has the fixed digits of a row, which gives its instruction (R104). -/
theorem exists_row_of_decodeOpcode_ok {w : Opcode} {i : Instr} (h : decodeOpcode w = .ok i) :
    ∃ r ∈ opcodeTable Config.hasLdRegSneReg, r.matchesFields (fieldsOf w) = true ∧ r.build (fieldsOf w) = i := by
  unfold decodeOpcode decodeOpcodeWith at h
  cases hfind : (opcodeTable Config.hasLdRegSneReg).find? fun r => r.matchesFields (fieldsOf w) with
  | none =>
    rw [hfind] at h
    cases h
  | some r =>
    rw [hfind] at h
    exact ⟨r, List.mem_of_find?_eq_some hfind,
      List.find?_some (p := fun r : OpcodeRow => r.matchesFields (fieldsOf w)) hfind, Except.ok.inj h⟩

/-- The opcode an instruction decoded from `w` encodes to: `w`, but for SHR and SHL `w` with the digit y put to 0 (log 11). -/
def reencoded (w : Opcode) : Instr → Opcode
  | .shr _ | .shl _ => packDigits (fieldsOf w).op (fieldsOf w).x 0 (fieldsOf w).n
  | _ => w

/-- A row's instruction for the fields of an opcode that has the row's fixed digits encodes to that opcode, row by row. -/
theorem encode_build_of_matchesFields (w : Opcode) : ∀ r ∈ opcodeTable Config.hasLdRegSneReg,
    r.matchesFields (fieldsOf w) = true → encode (r.build (fieldsOf w)) = reencoded w (r.build (fieldsOf w)) := by
  have hdigits := packDigits_fieldsOf w
  have hkk := packKk_fieldsOf w
  have hnnn := packNnn_fieldsOf w
  simp only [opcodeTable, opcodeRows0to7, opcodeRowsLdRegSneReg, opcodeRows8, opcodeRowsAtoE, opcodeRowsF, if_true,
    List.forall_mem_append, List.forall_mem_cons, List.not_mem_nil, false_imp_iff, implies_true, and_true,
    OpcodeRow.matchesFields, fits, Bool.and_eq_true, decide_eq_true_eq, encode, reencoded]
  generalize fieldsOf w = f at hdigits hkk hnnn
  -- One goal per row: its fixed digits stand in the packing of its format.
  and_intros <;> intro hfixed <;> simp_all

/-- A recognized opcode is its instruction's encoding, but for the digit y of SHR and SHL (D6, log 11). -/
theorem encode_of_decodeOpcode_ok {w : Opcode} {i : Instr} (h : decodeOpcode w = .ok i) : encode i = reencoded w i := by
  obtain ⟨r, hrow, hmatch, rfl⟩ := exists_row_of_decodeOpcode_ok h
  exact encode_build_of_matchesFields w r hrow hmatch

/-- Settles O3: the opcode's row gives back the opcode, with the digit y put to 0 for SHR and SHL. -/
theorem recognizedOpcodeIsItsInstructionsEncoding : Obligations.RecognizedOpcodeIsItsInstructionsEncoding := by
  intro w i h
  have henc := encode_of_decodeOpcode_ok h
  refine ⟨i.wellFormed_eq_true, fun hshift => ?shift, fun hshr hshl => ?other⟩
  case shift =>
    have hword : encode i = packDigits (fieldsOf w).op (fieldsOf w).x 0 (fieldsOf w).n := by
      obtain ⟨x, rfl⟩ | ⟨x, rfl⟩ := hshift <;> exact henc
    rw [hword]
    simp only [packDigits, fieldsOf, digit, BitVec.toNat_ofNat]
    omega
  case other =>
    cases i
    case shr x => exact absurd rfl (hshr x)
    case shl x => exact absurd rfl (hshl x)
    all_goals exact henc

/-! ### The opcodes that are no instruction -/

/-- An opcode is rejected when it has the fixed digits of no row (R75). -/
theorem decodeOpcode_error_iff (w : Opcode) : decodeOpcode w = .error (.unrecognizedOpcode w) ↔
    ∀ r ∈ opcodeTable Config.hasLdRegSneReg, ¬ r.matchesFields (fieldsOf w) = true := by
  rw [← List.find?_eq_none (p := fun r : OpcodeRow => r.matchesFields (fieldsOf w))]
  unfold decodeOpcode decodeOpcodeWith
  cases (opcodeTable Config.hasLdRegSneReg).find? fun r => r.matchesFields (fieldsOf w) <;> simp

/-- Settles O4, family by family of the high digit: the digits no row of the family fits are those of the listed set. -/
theorem unrecognizedOpcodesAreExactlyTheListed : Obligations.UnrecognizedOpcodesAreExactlyTheListed := by
  intro w
  have hw : w.toNat =
      (fieldsOf w).op.val * 0x1000 + (fieldsOf w).x.val * 0x100 + (fieldsOf w).y.val * 0x10 + (fieldsOf w).n.val := by
    simp only [fieldsOf, digit]
    omega
  have hop : w.toNat / 0x1000 = (fieldsOf w).op.val := by omega
  have hn : w.toNat % 0x10 = (fieldsOf w).n.val := by omega
  have hyn : w.toNat % 0x100 = (fieldsOf w).y.val * 0x10 + (fieldsOf w).n.val := by omega
  rw [decodeOpcode_error_iff]
  simp only [opcodeTable, opcodeRows0to7, opcodeRowsLdRegSneReg, opcodeRows8, opcodeRowsAtoE, opcodeRowsF, if_true,
    List.forall_mem_append, List.forall_mem_cons, List.not_mem_nil, false_imp_iff, implies_true, and_true,
    OpcodeRow.matchesFields, fits, Bool.and_eq_true, decide_eq_true_eq, hop, hn, hyn, ne_eq, ← BitVec.toNat_inj]
  clear hop hn hyn
  generalize (fieldsOf w).op = op, (fieldsOf w).x = x, (fieldsOf w).y = y, (fieldsOf w).n = n at hw ⊢
  fin_cases op <;> simp
  -- The families left, where not every opcode is an instruction: 0, 8, E and F.
  · simp at hw
    simp only [Fin.ext_iff]
    omega
  · clear hw
    revert n
    decide
  · clear hw
    revert y n
    decide
  · clear hw
    revert y n
    decide

end Sys2Proof

/-! ## Proofs: the other statements about fetch, control flow, arithmetic, the key wait and I

Each handler is one of the shared operations or a few of them; what they change is their frames together. -/

namespace Sys2Proof.Machine

/-- A piece that ends as it was need not stand in the frame. -/
theorem ChangesOnly.of_cons_same {p : Part} {ps : List Part} {s t : State} (h : ChangesOnly (p :: ps) s t)
    (hp : p.same s t) : ChangesOnly ps s t := by
  refine changesOnly_iff.2 fun q hq => ?_
  by_cases hqp : q = p
  · exact hqp ▸ hp
  · exact changesOnly_iff.1 h q (by simp [hqp, hq])

/-! ### Fetch and control flow -/

/-- Settles O7: the branch of `step` for a fetch past memory. -/
theorem fetchPastLastAddressRaisesOutOfBounds : Obligations.FetchPastLastAddressRaisesOutOfBounds := by
  intro s hrun hpc
  exact ⟨_, step_of_past_memory hrun hpc, s.faultAt_run _ _, s.faultAt_changesOnly _ _⟩

/-- Settles O14: the pop takes back what the push stored; of the pieces the two write, pc and SP end as they were. -/
theorem callThenReturnRestoresPcAndStackPointer : Obligations.CallThenReturnRestoresPcAndStackPointer := by
  intro nnn s hroom
  have hpos : 0 < ((s.pushReturn hroom).setPc (zextAddr nnn + 2)).sp.val := Nat.succ_pos _
  obtain ⟨hpc, hsp⟩ := s.popReturn_pushReturn hroom (zextAddr nnn + 2) hpos
  refine ⟨_, _, exec_call_of_room nnn hroom, exec_ret_of_pos hpos, hpc, hsp, s.pushReturn_getElem?_sp hroom, ?frame⟩
  case frame =>
    have hpush : ChangesOnly [.pc, .sp, .slot s.sp.val] s (s.pushReturn hroom) :=
      (s.pushReturn_changesOnly hroom).mono (by simp)
    have hjump := ((s.pushReturn hroom).setPc_changesOnly (zextAddr nnn + 2)).mono
      (show [Part.pc] ⊆ [.pc, .sp, .slot s.sp.val] by simp)
    have hpop := (State.popReturn_changesOnly _ hpos).mono (show [Part.sp, .pc] ⊆ [.pc, .sp, .slot s.sp.val] by simp)
    exact ((hpush.trans hjump).trans hpop).of_cons_same hpc |>.of_cons_same hsp

/-- Settles O16: the handler is a skip on Vx = Vy. -/
theorem skipsIfRegistersAreEqual : Obligations.SkipsIfRegistersAreEqual := by
  intro x y s
  have hexec : exec (.seReg x y) s = .next (s.skipIf (decide (s.getV x = s.getV y))) := rfl
  refine ⟨?decode, _, hexec, ?pc, s.skipIf_changesOnly _⟩
  case decode =>
    rw [ofNat_eq_packDigits (op := 0x5) (n := 0x0) (w := 0x5000) x y rfl]
    exact decodeOpcode_encode (.seReg x y)
  case pc => simp only [State.skipIf_pc, decide_eq_true_eq]

/-- Settles O17: the handler is a skip on Vx ≠ Vy. -/
theorem skipsIfRegistersDiffer : Obligations.SkipsIfRegistersDiffer := by
  intro x y s
  have hexec : exec (.sneReg x y) s = .next (s.skipIf (decide (s.getV x ≠ s.getV y))) := rfl
  refine ⟨?decode, _, hexec, ?pc, s.skipIf_changesOnly _⟩
  case decode =>
    rw [ofNat_eq_packDigits (op := 0x9) (n := 0x0) (w := 0x9000) x y rfl]
    exact decodeOpcode_encode (.sneReg x y)
  case pc => simp only [State.skipIf_pc, decide_eq_true_eq, ite_not]

/-! ### Arithmetic -/

/-- Settles O19: each handler is one write of Vx. -/
theorem loadAndAddImmediateWriteOnlyVx : Obligations.LoadAndAddImmediateWriteOnlyVx := by
  intro x kk s
  have hload : exec (.ldImm x kk) s = .next (s.setV x kk) := rfl
  have hadd : exec (.addImm x kk) s = .next (s.setV x (addByte (s.getV x) kk)) := rfl
  refine ⟨decodeOpcode_encode (.ldImm x kk), decodeOpcode_encode (.addImm x kk),
    ⟨_, hload, s.getV_setV_self x kk, s.setV_changesOnly x kk⟩, ⟨_, hadd, ?sum, s.setV_changesOnly x _⟩⟩
  case sum => rw [State.getV_setV_self, toNat_addByte]

/-- Adding a byte and then its complement mod 256 gives back the first byte (R141). -/
theorem addByte_addByte_complement (a kk : Byte) : addByte (addByte a kk) (BitVec.ofNat 8 (256 - kk.toNat)) = a := by
  apply BitVec.eq_of_toNat_eq
  have ha : a.toNat < 256 := a.isLt
  have hkk : kk.toNat < 256 := kk.isLt
  rw [toNat_addByte, toNat_addByte, BitVec.toNat_ofNat]
  omega

/-- Settles O20: both handlers write Vx alone, and Vx ends as it was. -/
theorem addImmediateThenItsComplementRestoresState : Obligations.AddImmediateThenItsComplementRestoresState := by
  intro x kk s
  refine ⟨_, _, rfl, rfl, ?frame⟩
  case frame =>
    refine ((s.setV_changesOnly x _).trans (State.setV_changesOnly _ x _)).of_cons_same ?_
    show State.getV _ x = s.getV x
    rw [State.getV_setV_self, State.getV_setV_self, addByte_addByte_complement]

/-- Settles O21: the handler is one write of Vx. -/
theorem registerCopyWritesVx : Obligations.RegisterCopyWritesVx := by
  intro x y s
  have hexec : exec (.ldReg x y) s = .next (s.setV x (s.getV y)) := rfl
  refine ⟨?decode, _, hexec, s.getV_setV_self x _, s.setV_changesOnly x _⟩
  case decode =>
    rw [ofNat_eq_packDigits (op := 0x8) (n := 0x0) (w := 0x8000) x y rfl]
    exact decodeOpcode_encode (.ldReg x y)

/-! ### Shifts -/

theorem toNat_shiftRightByte (b : Byte) : (shiftRightByte b).toNat = b.toNat / 2 := by
  have hb : b.toNat < 256 := b.isLt
  rw [shiftRightByte, BitVec.toNat_ofNat]
  omega

theorem toNat_shiftLeftByte (b : Byte) : (shiftLeftByte b).toNat = b.toNat * 2 % 256 :=
  BitVec.toNat_ofNat _ _

theorem toNat_flagByte (b : Bool) : (flagByte b).toNat = b.toNat := by
  cases b <;> rfl

theorem toNat_shiftedOutRight (b : Byte) : (shiftedOutRight b).toNat = b.toNat % 2 := by
  rw [shiftedOutRight, toNat_flagByte]
  obtain h | h := Nat.mod_two_eq_zero_or_one b.toNat <;> simp [h]

theorem toNat_shiftedOutLeft (b : Byte) : (shiftedOutLeft b).toNat = b.toNat / 128 := by
  have hb : b.toNat < 256 := b.isLt
  rw [shiftedOutLeft, toNat_flagByte]
  obtain h | h : b.toNat / 128 = 0 ∨ b.toNat / 128 = 1 := by omega
  all_goals simp [h]

/-- A shift changes Vx and VF alone (R148, R150). -/
theorem State.shiftRegister_changesOnly (s : State) (x : RegIndex) (out shift : Byte → Byte) :
    ChangesOnly [.v x, .v vf] s (s.shiftRegister Config.shiftVfDest x out shift) := by
  rw [State.shiftRegister_eq_writes]
  exact (s.applyAll_changesOnly _).mono (by simp [Write.part])

/-- Settles O26: the shift of a register that is not VF, with each instruction's two functions. -/
theorem shiftsCaptureTheBitShiftedOut : Obligations.ShiftsCaptureTheBitShiftedOut := by
  intro x y s
  have hshr : exec (.shr x) s = .next (s.shiftRegister Config.shiftVfDest x shiftedOutRight shiftRightByte) := rfl
  have hshl : exec (.shl x) s = .next (s.shiftRegister Config.shiftVfDest x shiftedOutLeft shiftLeftByte) := rfl
  refine ⟨?decodeShr, ?decodeShl, fun hx => ⟨⟨_, hshr, ?_, ?_, s.shiftRegister_changesOnly x _ _⟩,
    ⟨_, hshl, ?_, ?_, s.shiftRegister_changesOnly x _ _⟩⟩⟩
  case decodeShr =>
    rw [ofNat_eq_packDigits (op := 0x8) (n := 0x6) (w := 0x8006) x y rfl]
    exact decodeOpcode_packDigits_shift x y (by simp [opcodeRows8])
  case decodeShl =>
    rw [ofNat_eq_packDigits (op := 0x8) (n := 0xE) (w := 0x800E) x y rfl]
    exact decodeOpcode_packDigits_shift x y (by simp [opcodeRows8])
  · rw [State.shiftRegister_getV _ _ _ _ _ _ hx, if_neg hx, if_pos rfl, toNat_shiftRightByte]
  · rw [State.shiftRegister_getV _ _ _ _ _ _ hx, if_pos rfl, toNat_shiftedOutRight]
  · rw [State.shiftRegister_getV _ _ _ _ _ _ hx, if_neg hx, if_pos rfl, toNat_shiftLeftByte]
  · rw [State.shiftRegister_getV _ _ _ _ _ _ hx, if_pos rfl, toNat_shiftedOutLeft]

/-- Settles O27: under each reading VF holds what `State.shiftRegister_vf` says; under the model's, the shift of the flag. -/
theorem shiftsOfVfFollowTheParameterReading : Obligations.ShiftsOfVfFollowTheParameterReading := by
  intro s
  have hshr : exec (.shr vf) s = .next (s.shiftRegister Config.shiftVfDest vf shiftedOutRight shiftRightByte) := rfl
  have hshl : exec (.shl vf) s = .next (s.shiftRegister Config.shiftVfDest vf shiftedOutLeft shiftLeftByte) := rfl
  have hb : (s.getV vf).toNat < 256 := (s.getV vf).isLt
  refine ⟨⟨_, hshr, ?_, (s.shiftRegister_changesOnly vf _ _).mono (by simp)⟩,
    ⟨_, hshl, ?_, (s.shiftRegister_changesOnly vf _ _).mono (by simp)⟩, ?_, ?_, ?_, ?_⟩
  all_goals
    simp only [State.shiftRegister_vf, if_true, toNat_shiftRightByte, toNat_shiftLeftByte, toNat_shiftedOutRight,
      toNat_shiftedOutLeft]
  · omega
  · omega

/-- Settles O28: the handler writes the masked draw to Vx and counts the draw. -/
theorem randomIsOneDrawMasked : Obligations.RandomIsOneDrawMasked := by
  intro x kk s
  have hexec : exec (.rnd x kk) s = .next ((s.setV x (s.randomByte &&& kk)).countDraw) := rfl
  have hvx : (s.setV x (s.randomByte &&& kk)).countDraw.getV x = Config.randomByte s.draws &&& kk :=
    s.getV_setV_self x _
  refine ⟨decodeOpcode_encode (.rnd x kk), _, hexec, hvx, rfl, fun hzero => ?zero, ?frame⟩
  case zero =>
    rw [hvx, hzero]
    exact BitVec.and_zero
  case frame => exact s.applyAll_changesOnly (writes (.rnd x kk) s)

/-! ### The key wait and the index register (44_timer_key_index_memory.md) -/

/-- LD Vx, K with keys pressed: the lowest one's index (R193, D19). -/
theorem exec_ldVxK_of_key {s : State} (x : RegIndex) {k : Fin 16} (hk : s.keys[k.val] = true)
    (hlow : ∀ j : Fin 16, j < k → s.keys[j.val] = false) :
    exec (.ldVxK x) s = .next (s.setV x (BitVec.ofNat 8 k.val)) := by
  have hkey : s.lowestKey = some k.val := (s.lowestKey_eq_some k.val).2 ⟨k.isLt, hk, hlow⟩
  simp only [exec, execLdVxK, hkey]

/-- LD Vx, K with no key pressed goes back to its own address (R193). -/
theorem exec_ldVxK_of_no_key {s : State} (x : RegIndex) (hnone : ∀ k : Fin 16, s.keys[k.val] = false) :
    exec (.ldVxK x) s = .next s.rewind := by
  simp only [exec, execLdVxK, s.lowestKey_eq_none.2 hnone]

/-- A key's index fits in a byte. -/
theorem toNat_ofNat_keyIndex (k : Fin 16) : (BitVec.ofNat 8 k.val).toNat = k.val := by
  rw [BitVec.toNat_ofNat]
  omega

/-- Settles O34: the two branches of the key wait. -/
theorem awaitKeyTakesTheLowestPressedKey : Obligations.AwaitKeyTakesTheLowestPressedKey := by
  intro x s
  refine ⟨decodeOpcode_selector (op := 0xF) (y := 0x0) (n := 0xA) x rfl (by simp [opcodeRowsF]), fun k hk hlow => ?key,
    fun hnone => ⟨_, exec_ldVxK_of_no_key x hnone, rfl, s.setPc_changesOnly _⟩⟩
  case key =>
    refine ⟨_, exec_ldVxK_of_key x hk hlow, ?_, s.setV_changesOnly x _⟩
    rw [State.getV_setV_self, toNat_ofNat_keyIndex]

/-- The advance and then the rewind of a wait leave the whole state as it was (R193). -/
theorem State.rewind_advance (s : State) : s.advance.rewind = s := by
  have hpc : s.pc + 2 - 2 = s.pc := BitVec.add_sub_cancel s.pc 2
  simp only [State.rewind, State.advance, State.setPc, hpc]

/-- Settles O35: with no key the step leaves the state as it was, so any number of them does; with one key it is the advance and
one write of Vx. -/
theorem awaitKeyRepeatsUntilAKeyIsPressed : Obligations.AwaitKeyRepeatsUntilAKeyIsPressed := by
  intro x s hrun hpc hdec
  have hstep : step s = exec (.ldVxK x) s.advance := step_of_decodeOpcode_ok hrun hpc hdec
  refine ⟨fun hnone => runSchedule_replicate_of_fixed ?wait, fun k hk hothers => ?key⟩
  case wait =>
    have hnone' : ∀ k : Fin 16, s.advance.keys[k.val] = false := hnone
    rw [hstep, exec_ldVxK_of_no_key x hnone', State.rewind_advance]
  case key =>
    have hexec := exec_ldVxK_of_key (s := s.advance) x hk fun j hj => hothers j (Fin.ne_of_lt hj)
    refine ⟨_, hstep.trans hexec, State.toNat_advance_pc hpc, ?_, ?_⟩
    · rw [State.getV_setV_self, toNat_ofNat_keyIndex]
    · have hadv : ChangesOnly [.pc, .v x] s s.advance := s.advance_changesOnly.mono (by simp)
      exact hadv.trans ((s.advance.setV_changesOnly x _).mono (by simp))

/-- The glyph address, at most 0x50 + 5 × 0xFF, does not wrap (D17). -/
theorem toNat_glyphAddress (b : Byte) : (glyphAddress b).toNat = 0x50 + 5 * b.toNat := by
  have hb : b.toNat < 256 := b.isLt
  rw [glyphAddress, BitVec.toNat_ofNat, Config.fontBase_eq, Config.fontGlyphBytes_eq]
  omega

/-- Settles O41: each handler is one write of I. -/
theorem addToIndexAndGlyphAddress : Obligations.AddToIndexAndGlyphAddress := by
  intro x s
  have hadd : exec (.addI x) s = .next (s.setI (BitVec.ofNat 16 (s.i.toNat + (s.getV x).toNat))) := rfl
  have hglyph : exec (.ldF x) s = .next (s.setI (glyphAddress (s.getV x))) := rfl
  exact ⟨decodeOpcode_selector (op := 0xF) (y := 0x1) (n := 0xE) x rfl (by simp [opcodeRowsF]),
    decodeOpcode_selector (op := 0xF) (y := 0x2) (n := 0x9) x rfl (by simp [opcodeRowsF]),
    ⟨_, hadd, BitVec.toNat_ofNat _ _, s.setI_changesOnly _⟩, ⟨_, hglyph, toNat_glyphAddress _, s.setI_changesOnly _⟩⟩

end Sys2Proof.Machine

/-! ## Proofs: stores, block transfers, load and construction (20_memory.md, 44_timer_key_index_memory.md §4)

What a store leaves at each address, whoever reads it next; what memory and the other pieces hold at the start of a run. -/

namespace Sys2Proof.Machine

/-! ### What the stores write where -/

/-- The bytes a storing instruction writes from I on (R199, R200). -/
def storedBytes : Instr → State → List Byte
  | .ldB x, s => decimalDigits (s.getV x)
  | .storeRegs x, s => s.registersTo x
  | _, _ => []

theorem State.getElem_registersTo (s : State) (x : RegIndex) {k : Nat} (hk : k < (s.registersTo x).length) :
    (s.registersTo x)[k] = s.v[k]'(by rw [State.length_registersTo] at hk; omega) := by
  simp [State.registersTo]

theorem toNat_decimalDigit_hundreds (b : Byte) : (BitVec.ofNat 8 (b.toNat / 100)).toNat = b.toNat / 100 := by
  rw [BitVec.toNat_ofNat]
  omega

theorem toNat_decimalDigit_tens (b : Byte) : (BitVec.ofNat 8 (b.toNat / 10 % 10)).toNat = b.toNat / 10 % 10 := by
  rw [BitVec.toNat_ofNat]
  omega

theorem toNat_decimalDigit_units (b : Byte) : (BitVec.ofNat 8 (b.toNat % 10)).toNat = b.toNat % 10 := by
  rw [BitVec.toNat_ofNat]
  omega

/-- `storesByte` says which byte of the block is stored where. -/
theorem storesByte_iff {i : Instr} {s : State} {a : Nat} {b : Byte} :
    storesByte i s a b ↔ ∃ k, ∃ h : k < (storedBytes i s).length, a = s.i.toNat + k ∧ b = (storedBytes i s)[k] := by
  cases i
  case ldB x =>
    constructor
    · rintro (⟨rfl, hb⟩ | ⟨rfl, hb⟩ | ⟨rfl, hb⟩)
      · exact ⟨0, Nat.zero_lt_succ _, rfl, BitVec.eq_of_toNat_eq (hb.trans (toNat_decimalDigit_hundreds _).symm)⟩
      · exact ⟨1, by simp [storedBytes, decimalDigits], rfl,
          BitVec.eq_of_toNat_eq (hb.trans (toNat_decimalDigit_tens _).symm)⟩
      · exact ⟨2, by simp [storedBytes, decimalDigits], rfl,
          BitVec.eq_of_toNat_eq (hb.trans (toNat_decimalDigit_units _).symm)⟩
    · rintro ⟨k, hk, rfl, rfl⟩
      match k, hk with
      | 0, _ => exact .inl ⟨rfl, toNat_decimalDigit_hundreds _⟩
      | 1, _ => exact .inr (.inl ⟨rfl, toNat_decimalDigit_tens _⟩)
      | 2, _ => exact .inr (.inr ⟨rfl, toNat_decimalDigit_units _⟩)
  case storeRegs x =>
    constructor
    · rintro ⟨k, hk, rfl, rfl⟩
      have hlt : k.val < (s.registersTo x).length := by
        rw [State.length_registersTo]
        exact Nat.lt_succ_of_le hk
      exact ⟨k.val, hlt, rfl, (s.getElem_registersTo x hlt).symm⟩
    · rintro ⟨k, hk, rfl, rfl⟩
      have hlt : k < x.val + 1 := by simpa [storedBytes] using hk
      exact ⟨⟨k, by omega⟩, Nat.le_of_lt_succ hlt, rfl, s.getElem_registersTo x hk⟩
  all_goals simp [storesByte, storedBytes]

/-- A run of byte writes changes the bytes it is to alone (R60). -/
theorem State.writeBytes_changesOnly (s : State) (a : Nat) (us : List Byte) :
    ChangesOnly ((List.range us.length).map fun k => .byte (a + k)) s { s with mem := s.mem.writeBytes a us } := by
  rw [← State.applyAll_byteWrites]
  refine (s.applyAll_changesOnly _).mono fun p hp => ?_
  obtain ⟨w, hw, rfl⟩ := List.mem_map.1 hp
  obtain ⟨k, hk, rfl⟩ := mem_byteWrites.1 hw
  exact List.mem_map.2 ⟨k, List.mem_range.2 hk, rfl⟩

/-- LD B and LD [I] that raise no fault store their block at I. -/
theorem exec_of_stores {i : Instr} {s : State} (hi : (∃ x, i = .ldB x) ∨ ∃ x, i = .storeRegs x)
    (hc : faultCondition i s = none) : exec i s = .next (s.storeAtI (storedBytes i s)) := by
  rw [exec_of_no_fault hc]
  obtain ⟨x, rfl⟩ | ⟨x, rfl⟩ := hi <;> exact congrArg _ (State.applyAll_byteWrites _ _ _)

/-- Where an instruction stored a byte it is read back (R62). -/
theorem read_of_storesByte {i : Instr} {s : State} {a : Nat} {b : Byte} (h : storesByte i s a b) :
    (s.storeAtI (storedBytes i s)).mem.read a = b := by
  obtain ⟨k, hk, rfl, rfl⟩ := storesByte_iff.1 h
  rw [State.storeAtI_mem, State.effectiveAddress_zero, Memory.read_writeBytes, dif_pos (by omega)]
  simp only [Nat.add_sub_cancel_left]

/-- Elsewhere the old byte is. -/
theorem read_of_not_storesByte {i : Instr} {s : State} {a : Nat} (h : ∀ b, ¬ storesByte i s a b) :
    (s.storeAtI (storedBytes i s)).mem.read a = s.mem.read a := by
  rw [State.storeAtI_mem, State.effectiveAddress_zero, Memory.read_writeBytes, dif_neg]
  rintro ⟨hle, hlt⟩
  exact h _ (storesByte_iff.2 ⟨a - s.i.toNat, by omega, by omega, rfl⟩)

theorem toNat_bigEndian (hi lo : Byte) : (bigEndian hi lo).toNat = hi.toNat * 256 + lo.toNat := by
  have hhi : hi.toNat < 256 := hi.isLt
  have hlo : lo.toNat < 256 := lo.isLt
  rw [bigEndian, BitVec.toNat_ofNat, Nat.mod_eq_of_lt (by omega)]

/-- Settles O45: a fetch reads memory at pc and pc + 1, and each read is of a stored byte or of an old one. -/
theorem fetchSeesTheBytesJustStored : Obligations.FetchSeesTheBytesJustStored := by
  intro i s hi hc
  refine ⟨_, exec_of_stores hi hc, rfl, fun u hmem hpc => ⟨_, _, State.fetch_of_inBounds hpc, toNat_bigEndian _ _, ?_⟩⟩
  simp only [hmem]
  exact ⟨fun b => read_of_storesByte, read_of_not_storesByte, fun b => read_of_storesByte, read_of_not_storesByte⟩

/-- Settles O42: the three digits are stored bytes; past memory the fault condition holds. -/
theorem storeDecimalWritesThreeDigits : Obligations.StoreDecimalWritesThreeDigits := by
  intro x s
  refine ⟨decodeOpcode_selector (op := 0xF) (y := 0x3) (n := 0x3) x rfl (by simp [opcodeRowsF]), fun hin => ?stores,
    fun hout => ?faults⟩
  case stores =>
    have hc : faultCondition (.ldB x) s = none := faultCondition_ldB_eq_none.2 hin
    have hhundreds : storesByte (.ldB x) s s.i.toNat _ := .inl ⟨rfl, toNat_decimalDigit_hundreds _⟩
    have htens : storesByte (.ldB x) s (s.i.toNat + 1) _ := .inr (.inl ⟨rfl, toNat_decimalDigit_tens _⟩)
    have hunits : storesByte (.ldB x) s (s.i.toNat + 2) _ := .inr (.inr ⟨rfl, toNat_decimalDigit_units _⟩)
    refine ⟨_, exec_of_stores (.inl ⟨x, rfl⟩) hc, ?_, ?_, ?_, s.writeBytes_changesOnly s.i.toNat (decimalDigits (s.getV x))⟩
    · rw [read_of_storesByte hhundreds, toNat_decimalDigit_hundreds]
    · rw [read_of_storesByte htens, toNat_decimalDigit_tens]
    · rw [read_of_storesByte hunits, toNat_decimalDigit_units]
  case faults =>
    have hc : faultCondition (.ldB x) s = some .outOfBounds := if_pos hout
    exact ⟨_, exec_of_fault hc, s.raise_run _, s.raise_changesOnly _⟩

/-- Settles O43: V0 to Vx are stored bytes; past memory the fault condition holds. -/
theorem storeRegistersWritesV0ToVx : Obligations.StoreRegistersWritesV0ToVx := by
  intro x s
  refine ⟨decodeOpcode_selector (op := 0xF) (y := 0x5) (n := 0x5) x rfl (by simp [opcodeRowsF]), fun hin => ?stores,
    fun hout => ?faults⟩
  case stores =>
    have hc : faultCondition (.storeRegs x) s = none := faultCondition_storeRegs_eq_none.2 hin
    refine ⟨_, exec_of_stores (.inr ⟨x, rfl⟩) hc, fun k hk => read_of_storesByte ⟨k, hk, rfl, rfl⟩, ?_⟩
    rw [← s.length_registersTo x]
    exact s.writeBytes_changesOnly _ _
  case faults =>
    have hc : faultCondition (.storeRegs x) s = some .outOfBounds := if_pos hout
    exact ⟨_, exec_of_fault hc, s.raise_run _, s.raise_changesOnly _⟩

/-- LD Vx, [I] in bounds (R201). -/
theorem exec_loadRegs_of_inBounds {s : State} {x : RegIndex} (h : s.i.toNat + x.val ≤ 0xFFF) :
    exec (.loadRegs x) s = .next (s.loadRegisters x) := by
  rw [exec_of_no_fault (faultCondition_loadRegs_eq_none.2 h), State.loadRegisters_eq, writes]

/-- A block load changes registers alone. -/
theorem State.loadRegisters_changesOnly (s : State) (x : RegIndex) :
    ChangesOnly ((List.finRange 16).map .v) s (s.loadRegisters x) := by
  rw [State.loadRegisters_eq]
  refine (s.applyAll_changesOnly _).mono fun p hp => ?_
  obtain ⟨w, hw, rfl⟩ := List.mem_map.1 hp
  obtain ⟨k, -, rfl⟩ := List.mem_map.1 hw
  exact List.mem_map.2 ⟨k, List.mem_finRange k, rfl⟩

/-- Settles O44: what the block load leaves in each register; past memory the fault condition holds. -/
theorem loadRegistersReadsV0ToVx : Obligations.LoadRegistersReadsV0ToVx := by
  intro x s
  refine ⟨decodeOpcode_selector (op := 0xF) (y := 0x6) (n := 0x5) x rfl (by simp [opcodeRowsF]), fun hin => ?loads,
    fun hout => ?faults⟩
  case loads =>
    refine ⟨_, exec_loadRegs_of_inBounds hin, fun k hk => ?_, fun k hk => ?_, s.loadRegisters_changesOnly x⟩
    · exact (s.getV_loadRegisters x k).trans (if_pos hk)
    · exact (s.getV_loadRegisters x k).trans (if_neg (Nat.not_le.2 hk))
  case faults =>
    have hc : faultCondition (.loadRegs x) s = some .outOfBounds := if_pos hout
    exact ⟨_, exec_of_fault hc, s.raise_run _, s.raise_changesOnly _⟩

/-! ### Load and construction -/

/-- Settles O52: the load is a run of byte writes from 0x200, or a refusal. -/
theorem loadWritesTheProgramOrRefuses : Obligations.LoadWritesTheProgramOrRefuses := by
  intro p s
  refine ⟨fun hfits => ⟨_, s.load_of_fits hfits, fun k hk => ?byte, s.writeBytes_changesOnly _ p⟩, s.load_of_too_large⟩
  case byte =>
    rw [Memory.read_writeBytes, Config.programOrigin_eq, dif_pos (by omega)]
    simp only [Nat.add_sub_cancel_left]

/-- Settles O53: after the load the opcode at 0x200 is the program's first word. -/
theorem bootedProgramRunsItsFirstWord : Obligations.BootedProgramRunsItsFirstWord := by
  intro hi lo rest i hlen hdec
  have hpc : State.reset.pc.toNat = 0x200 := by decide
  refine ⟨_, State.reset.load_of_fits hlen, rfl, step_of_decodeOpcode_ok rfl ?fetchable ?opcode⟩
  case fetchable =>
    show State.reset.pc.toNat + 1 ≤ 0xFFF
    omega
  case opcode =>
    have hhi : (State.reset.mem.writeBytes Config.programOrigin (hi :: lo :: rest)).read 0x200 = hi := by
      rw [Memory.read_writeBytes, Config.programOrigin_eq, dif_pos (by simp only [List.length_cons]; omega)]
      rfl
    have hlo : (State.reset.mem.writeBytes Config.programOrigin (hi :: lo :: rest)).read 0x201 = lo := by
      rw [Memory.read_writeBytes, Config.programOrigin_eq, dif_pos (by simp only [List.length_cons]; omega)]
      rfl
    simp only [State.opcodeAtPc, hpc, hhi, hlo]
    exact hdec

/-- Settles O51: memory lists no cell, so each address reads its content after construction; the other pieces are constants. -/
theorem resetHoldsTheConstructionValues : Obligations.ResetHoldsTheConstructionValues := by
  have hread : ∀ a, State.reset.mem.read a = Memory.resetByte a := fun _ => rfl
  refine ⟨fun a ha => ?below, fun d k hd hk => ?font, fun a ha _ => ?above, rfl, rfl, fun k => ?v, rfl, rfl, fun k => ?slot,
    rfl, rfl, fun row col _ _ => Framebuffer.cell_clear _, rfl, fun k => ?key⟩
  case below =>
    rw [hread, Memory.resetByte, if_neg]
    simp only [Config.fontBase_eq]
    omega
  case font =>
    have hoffset : 0x50 + 5 * d + k - 80 = 5 * d + k := by omega
    rw [hread, Memory.resetByte, if_pos (by simp only [Config.fontBase_eq]; omega), Config.fontBase_eq, hoffset]
  case above =>
    rw [hread, Memory.resetByte, if_neg]
    simp only [Config.fontBase_eq]
    omega
  case v => exact Vector.getElem_replicate _
  case slot => exact Vector.getElem_replicate _
  case key => exact Vector.getElem_replicate _

end Sys2Proof.Machine

/-! ## Proofs: drawing (43_graphics.md R171 to R173)

The cells a sprite covers are the ones `State.drawnCells` lists; a draw toggles those and reports whether one was set. -/

namespace Sys2Proof.Machine

/-- A sprite covers the cell at a row and a column of the screen when that cell is one of those it draws. -/
theorem mem_drawnCells_iff (s : State) (x y : RegIndex) (n : Nat) {row col : Nat} (hrow : row < 32) (hcol : col < 64) :
    cellIndex row col ∈ s.drawnCells x y n ↔ spriteCovers s x y n row col := by
  rw [State.drawnCells, mem_spriteCells]
  constructor
  · rintro ⟨r, hr, c, hc, hpixel, hcell⟩
    have hrn : r < n := by simpa [State.sprite] using hr
    obtain ⟨hrow', hcol'⟩ := cellIndex_inj hcol (Nat.mod_lt _ (by decide)) hcell
    refine ⟨r, hrn, c, hc, ?_, hrow', hcol'⟩
    simpa [State.sprite, Memory.getElem_readBytes, spritePixel] using hpixel
  · rintro ⟨r, hrn, c, hc, hpixel, rfl, rfl⟩
    have hr : r < (s.sprite n).length := by simpa [State.sprite] using hrn
    refine ⟨r, hr, c, hc, ?_, rfl⟩
    simpa [State.sprite, Memory.getElem_readBytes, spritePixel] using hpixel

/-- Every cell a sprite draws is at a row and a column of the screen. -/
theorem exists_of_mem_drawnCells {s : State} {x y : RegIndex} {n k : Nat} (h : k ∈ s.drawnCells x y n) :
    ∃ row col, row < 32 ∧ col < 64 ∧ k = cellIndex row col := by
  obtain ⟨r, -, c, -, -, rfl⟩ := (mem_spriteCells _ _ _ _).1 h
  exact ⟨_, _, Nat.mod_lt _ (by decide), Nat.mod_lt _ (by decide), rfl⟩

/-- The collision DRW reports is the one of R9. -/
theorem drawnCells_any_iff (s : State) (x y : RegIndex) (n : Nat) :
    (s.drawnCells x y n).any s.fb.cell = true ↔ spriteCollides s x y n := by
  rw [List.any_eq_true]
  constructor
  · rintro ⟨k, hk, hset⟩
    obtain ⟨row, col, hrow, hcol, rfl⟩ := exists_of_mem_drawnCells hk
    exact ⟨row, col, hrow, hcol, (mem_drawnCells_iff s x y n hrow hcol).1 hk, hset⟩
  · rintro ⟨row, col, hrow, hcol, hcovers, hset⟩
    exact ⟨_, (mem_drawnCells_iff s x y n hrow hcol).2 hcovers, hset⟩

/-! ### The handler -/

/-- DRW with its sprite in memory (R171). -/
theorem exec_drw_of_inBounds {x y : RegIndex} {n : Fin 16} {s : State} (h : n.val = 0 ∨ s.i.toNat + n.val - 1 ≤ 0xFFF) :
    exec (.drw x y n) s =
      .next ((s.setScreen (s.drawSprite x y n.val).1).setV vf (flagByte (s.drawSprite x y n.val).2)) := by
  have hin : inBounds s.i.toNat n.val = true := (inBounds_iff _ _).2 h
  simp only [exec, execDrw, State.unlessFault_eq, State.effectiveAddress_zero, hin, if_true]

/-- VF after DRW is the collision. -/
theorem flagByte_drawSprite (s : State) (x y : RegIndex) (n : Fin 16) :
    flagByte (s.drawSprite x y n.val).2 = if (s.drawnCells x y n.val).any s.fb.cell then 1 else 0 := by
  have hn : n.val ≤ Config.fbHeight := n.isLt.le.trans (by decide)
  rw [(s.drawSprite_spec x y n.val hn).2, flagByte]

/-- Settles O30: the cells toggled are the ones covered, and the flag is the collision with them. -/
theorem drawTogglesExactlyTheSpritesPixels : Obligations.DrawTogglesExactlyTheSpritesPixels := by
  intro x y n s
  have hn : n.val ≤ Config.fbHeight := n.isLt.le.trans (by decide)
  refine ⟨?decode, fun hin => ⟨_, exec_drw_of_inBounds hin, fun row col hrow hcol => ?cells, fun hhit => ?hit, fun hmiss => ?miss,
    rfl, ?frame⟩⟩
  case decode =>
    have hword : BitVec.ofNat 16 (0xD000 + x.val * 0x100 + y.val * 0x10 + n.val) = packDigits 0xD x y n := rfl
    rw [hword, decodeOpcode_drw]
  case cells =>
    have hcell := (s.drawSprite_spec x y n.val hn).1 (cellIndex row col)
    rw [← mem_drawnCells_iff s x y n.val hrow hcol]
    show (s.drawSprite x y n.val).1.cell (cellIndex row col) ≠ s.fb.cell (cellIndex row col) ↔ _
    rw [hcell]
    by_cases hmem : cellIndex row col ∈ s.drawnCells x y n.val <;> simp [hmem]
  case hit => rw [State.getV_setV_self, flagByte_drawSprite, if_pos ((drawnCells_any_iff s x y n.val).2 hhit)]
  case miss => rw [State.getV_setV_self, flagByte_drawSprite, if_neg (fun h => hmiss ((drawnCells_any_iff s x y n.val).1 h))]
  case frame =>
    have hscreen : ChangesOnly [.fb, .v vf, .redraw] s (s.setScreen (s.drawSprite x y n.val).1) :=
      (s.setScreen_changesOnly _).mono (by simp)
    exact hscreen.trans ((State.setV_changesOnly _ vf _).mono (by simp))

/-- Settles O31: the fault condition holds. -/
theorem drawPastMemoryRaisesOutOfBounds : Obligations.DrawPastMemoryRaisesOutOfBounds := by
  intro x y n s hpos hpast
  have hc : faultCondition (.drw x y n) s = some .outOfBounds := if_pos ⟨hpos, hpast⟩
  exact ⟨_, exec_of_fault hc, s.raise_run _, s.raise_changesOnly _⟩

/-- The cells a draw toggles depend on I, the sprite's bytes and the two registers alone. -/
theorem drawnCells_congr {s u : State} {x y : RegIndex} (n : Nat) (hi : u.i = s.i)
    (hmem : ∀ a, u.mem.read a = s.mem.read a) (hx : u.getV x = s.getV x) (hy : u.getV y = s.getV y) :
    u.drawnCells x y n = s.drawnCells x y n := by
  simp only [State.drawnCells, State.sprite, Memory.readBytes, State.effectiveAddress, hi, hmem, hx, hy]

/-- A sprite draws some cell exactly when one of its bytes has a bit set. -/
theorem exists_mem_drawnCells_iff (s : State) (x y : RegIndex) (n : Nat) : (∃ k, k ∈ s.drawnCells x y n) ↔
    ∃ r c, r < n ∧ c < 8 ∧ (s.mem.read (s.i.toNat + r)).getLsbD c = true := by
  simp only [State.drawnCells, mem_spriteCells]
  constructor
  · rintro ⟨k, r, hr, c, hc, hpixel, -⟩
    have hrn : r < n := by simpa [State.sprite] using hr
    exact ⟨r, 7 - c, hrn, by omega, by simpa [State.sprite, Memory.getElem_readBytes, spritePixel] using hpixel⟩
  · rintro ⟨r, c, hrn, hc, hbit⟩
    have hr : r < (s.sprite n).length := by simpa [State.sprite] using hrn
    have hback : 7 - (7 - c) = c := by omega
    exact ⟨_, r, hr, 7 - c, by omega, by simpa [State.sprite, Memory.getElem_readBytes, spritePixel, hback] using hbit, rfl⟩

/-- Settles O32: both draws toggle the same cells; on a blank background the first sets them all, so the second meets a set cell
exactly when there is one. -/
theorem drawingTwiceRestoresTheScreen : Obligations.DrawingTwiceRestoresTheScreen := by
  intro x y n s hin
  have hn : n.val ≤ Config.fbHeight := n.isLt.le.trans (by decide)
  refine ⟨_, exec_drw_of_inBounds hin, fun u hfb hi hmem hx hy => ?second⟩
  case second =>
    have hcells : u.drawnCells x y n.val = s.drawnCells x y n.val := drawnCells_congr n.val hi hmem hx hy
    have hdrawn : ∀ k, u.fb.cell k = (s.fb.cell k ^^ decide (k ∈ s.drawnCells x y n.val)) := fun k => by
      rw [hfb]
      exact (s.drawSprite_spec x y n.val hn).1 k
    refine ⟨_, exec_drw_of_inBounds (hi ▸ hin), ?restored, fun hblank => ?collisions⟩
    case restored =>
      refine Framebuffer.ext_cell fun k _ => ?_
      have hagain := (u.drawSprite_spec x y n.val hn).1 k
      rw [hcells, hdrawn, Bool.xor_assoc, Bool.xor_self, Bool.xor_false] at hagain
      exact hagain
    case collisions =>
      have hzero : ∀ k ∈ s.drawnCells x y n.val, s.fb.cell k = false := by
        intro k hk
        obtain ⟨row, col, hrow, hcol, rfl⟩ := exists_of_mem_drawnCells hk
        exact hblank row col hrow hcol ((mem_drawnCells_iff s x y n.val hrow hcol).1 hk)
      have hfirst : (s.drawnCells x y n.val).any s.fb.cell = false := by
        simpa [List.any_eq_false] using hzero
      have hsecond : (u.drawnCells x y n.val).any u.fb.cell = true ↔ ∃ k, k ∈ s.drawnCells x y n.val := by
        rw [hcells, List.any_eq_true]
        refine exists_congr fun k => and_iff_left_of_imp fun hk => ?_
        rw [hdrawn, hzero k hk]
        simpa using hk
      refine ⟨?_, ?_⟩
      · rw [State.getV_setV_self, flagByte_drawSprite, hfirst]
        rfl
      · rw [State.getV_setV_self, flagByte_drawSprite, ← exists_mem_drawnCells_iff s x y n.val, ← hsecond]
        by_cases hhit : (u.drawnCells x y n.val).any u.fb.cell = true <;> simp [hhit]

end Sys2Proof.Machine
